-- ==== Sys2Proof/Word.lean ====
section
/-! DEFINITION. The word types of the machine (spec/00_scope.md rule R8: data width 8 bits, address width 16 bits). -/

namespace Sys2Proof

/-- A byte: `A`, `X`, `Y`, `SP`, one memory datum (rule R8). -/
abbrev Byte := BitVec 8

/-- A 16-bit value: the program counter and every memory address (rules R8, R51). -/
abbrev Addr := BitVec 16

end Sys2Proof
end

