-- ==== Sys2Proof/Machine/Bits.lean ====
section
/-! DEFINITION. The bit-field, extension and byte-order helpers of the notation (spec/00_scope.md rules R9, R10). -/

namespace Sys2Proof

/-- `hi:lo`, the 16-bit value `hi * 256 + lo` (rule R9). -/
def joinBytes (hi lo : Byte) : Addr := hi ++ lo

/-- `w[7:0]`. -/
def loByte (w : Addr) : Byte := w.extractLsb' 0 8

/-- `w[15:8]`, the page of an address (rule R12). -/
def hiByte (w : Addr) : Byte := w.extractLsb' 8 8

/-- `zext_16(v)` (rule R10). -/
def zext16 (v : Byte) : Addr := v.zeroExtend 16

/-- `sext_16(v)` (rule R10): bit 7 copied into bits 15..8. -/
def sext16 (v : Byte) : Addr := v.signExtend 16

/-- One flag as the number 0 or 1. -/
def bitNat (b : Bool) : Nat := if b then 1 else 0

end Sys2Proof
end

