-- ==== Sys2Proof/Syntax.lean ====
section
/-! DEFINITION. The instructions as data: one constructor per instruction of spec/opcode_table.json (the absolute and the
indirect jump, which have rules of their own, are two). The table's rows that share a mnemonic and a rule are that
instruction's addressing modes, and are its operand's alternatives (spec/30_encoding.md rules R81, R85). -/

namespace Sys2Proof

/-- The addressing modes that name a byte of memory (spec/30_encoding.md rule R81), with their operand: a zero-page byte
`n` or a 16-bit address. -/
inductive MemMode where
  | zp (n : Byte)
  | zpx (n : Byte)
  | zpy (n : Byte)
  | abs (addr : Addr)
  | absx (addr : Addr)
  | absy (addr : Addr)
  | indx (n : Byte)
  | indy (n : Byte)
  deriving DecidableEq, Repr

/-- The operand of an instruction that only reads it: an immediate byte or a byte of memory (rule R126). -/
inductive Operand where
  | imm (n : Byte)
  | mem (m : MemMode)
  deriving DecidableEq, Repr

/-- What a shift or rotate changes in place: the accumulator (mode `ACC`) or a byte of memory (rule R113, R126). -/
inductive Target where
  | acc
  | mem (m : MemMode)
  deriving DecidableEq, Repr

/-- The instructions (spec/opcode_table.json). Which modes an instruction has is `Instr.wf`. -/
inductive Instr where
  -- spec/41_alu.md
  | adc (o : Operand)
  | sbc (o : Operand)
  | and (o : Operand)
  | ora (o : Operand)
  | eor (o : Operand)
  | cmp (o : Operand)
  | cpx (o : Operand)
  | cpy (o : Operand)
  | bit (m : MemMode)
  -- spec/42_shift_incdec.md
  | asl (t : Target)
  | lsr (t : Target)
  | rol (t : Target)
  | ror (t : Target)
  | inc (m : MemMode)
  | dec (m : MemMode)
  | inx
  | iny
  | dex
  | dey
  -- spec/43_load_store_transfer.md
  | lda (o : Operand)
  | ldx (o : Operand)
  | ldy (o : Operand)
  | sta (m : MemMode)
  | stx (m : MemMode)
  | sty (m : MemMode)
  | tax
  | tay
  | txa
  | tya
  | tsx
  | txs
  -- spec/44_stack.md
  | pha
  | php
  | pla
  | plp
  -- spec/45_control_flow.md
  | jmpAbs (addr : Addr)
  | jmpInd (ptr : Addr)
  | jsr (addr : Addr)
  | rts
  | bpl (off : Byte)
  | bmi (off : Byte)
  | bvc (off : Byte)
  | bvs (off : Byte)
  | bcc (off : Byte)
  | bcs (off : Byte)
  | bne (off : Byte)
  | beq (off : Byte)
  -- spec/46_flags_system.md
  | clc
  | sec
  | cli
  | sei
  | cld
  | sed
  | clv
  | nop
  | brk
  | rti
  -- spec/30_encoding.md rule R88: one of the 105 bytes that spell no instruction
  | illegal (op : Byte)
  deriving DecidableEq, Repr

end Sys2Proof
end

