-- ==== Sys2Proof/WellFormed.lean ====
section
/-! DEFINITION. Which instruction terms the opcode map has a row for: the modes of each mnemonic (spec/30_encoding.md
rule R85) and the illegal bytes (rule R86). It is written from the mode lists alone; Decode.lean is written from the
opcode numbers, and Laws/Decode.lean proves that the two agree. -/

namespace Sys2Proof

/-- Modes ZP, ZPX, ABS, ABSX, ABSY, INDX, INDY: every memory mode but ZPY, which "is used only by LDX and STX"
(rule R116). -/
def MemMode.notZpy : MemMode → Bool
  | .zpy _ => false
  | _ => true

/-- Modes ZP, ZPX, ABS, ABSX: the memory modes of the read-modify-write instructions and (with IMM) of LDY. -/
def MemMode.zpAbsX : MemMode → Bool
  | .zp _ | .zpx _ | .abs _ | .absx _ => true
  | _ => false

/-- Modes ZP, ZPY, ABS, ABSY: the memory modes of LDX. -/
def MemMode.zpAbsY : MemMode → Bool
  | .zp _ | .zpy _ | .abs _ | .absy _ => true
  | _ => false

/-- Modes ZP, ABS: BIT, CPX and CPY. -/
def MemMode.zpAbs : MemMode → Bool
  | .zp _ | .abs _ => true
  | _ => false

/-- Modes ZP, ZPX, ABS: STY. -/
def MemMode.zpZpxAbs : MemMode → Bool
  | .zp _ | .zpx _ | .abs _ => true
  | _ => false

/-- Modes ZP, ZPY, ABS: STX. -/
def MemMode.zpZpyAbs : MemMode → Bool
  | .zp _ | .zpy _ | .abs _ => true
  | _ => false

/-- An immediate operand, or a memory operand in one of the given modes. -/
def Operand.allows (p : MemMode → Bool) : Operand → Bool
  | .imm _ => true
  | .mem m => p m

/-- The accumulator, or a memory target in one of the given modes. -/
def Target.allows (p : MemMode → Bool) : Target → Bool
  | .acc => true
  | .mem m => p m

/-- The 105 opcode bytes that spell no instruction (rule R86). -/
def illegalBytes : List Byte :=
  [0x02, 0x03, 0x04, 0x07, 0x0B, 0x0C, 0x0F] ++
  [0x12, 0x13, 0x14, 0x17, 0x1A, 0x1B, 0x1C, 0x1F] ++
  [0x22, 0x23, 0x27, 0x2B, 0x2F] ++
  [0x32, 0x33, 0x34, 0x37, 0x3A, 0x3B, 0x3C, 0x3F] ++
  [0x42, 0x43, 0x44, 0x47, 0x4B, 0x4F] ++
  [0x52, 0x53, 0x54, 0x57, 0x5A, 0x5B, 0x5C, 0x5F] ++
  [0x62, 0x63, 0x64, 0x67, 0x6B, 0x6F] ++
  [0x72, 0x73, 0x74, 0x77, 0x7A, 0x7B, 0x7C, 0x7F] ++
  [0x80, 0x82, 0x83, 0x87, 0x89, 0x8B, 0x8F] ++
  [0x92, 0x93, 0x97, 0x9B, 0x9C, 0x9E, 0x9F] ++
  [0xA3, 0xA7, 0xAB, 0xAF] ++
  [0xB2, 0xB3, 0xB7, 0xBB, 0xBF] ++
  [0xC2, 0xC3, 0xC7, 0xCB, 0xCF] ++
  [0xD2, 0xD3, 0xD4, 0xD7, 0xDA, 0xDB, 0xDC, 0xDF] ++
  [0xE2, 0xE3, 0xE7, 0xEB, 0xEF] ++
  [0xF2, 0xF3, 0xF4, 0xF7, 0xFA, 0xFB, 0xFC, 0xFF]

/-- The instruction has a row in the opcode map (rules R85, R86). -/
def Instr.wf : Instr → Bool
  | .adc o | .sbc o | .and o | .ora o | .eor o | .cmp o | .lda o => o.allows MemMode.notZpy
  | .cpx o | .cpy o => o.allows MemMode.zpAbs
  | .bit m => m.zpAbs
  | .asl t | .lsr t | .rol t | .ror t => t.allows MemMode.zpAbsX
  | .inc m | .dec m => m.zpAbsX
  | .ldx o => o.allows MemMode.zpAbsY
  | .ldy o => o.allows MemMode.zpAbsX
  | .sta m => m.notZpy
  | .stx m => m.zpZpyAbs
  | .sty m => m.zpZpxAbs
  | .illegal op => illegalBytes.contains op
  | .inx | .iny | .dex | .dey => true
  | .tax | .tay | .txa | .tya | .tsx | .txs => true
  | .pha | .php | .pla | .plp => true
  | .jmpAbs _ | .jmpInd _ | .jsr _ | .rts => true
  | .bpl _ | .bmi _ | .bvc _ | .bvs _ | .bcc _ | .bcs _ | .bne _ | .beq _ => true
  | .clc | .sec | .cli | .sei | .cld | .sed | .clv | .nop | .brk | .rti => true

end Sys2Proof
end

