-- ==== Sys2Proof/Decode.lean ====
section
/-! DEFINITION. The decoder, the 256-entry opcode map of spec/30_encoding.md rule R84, total on any bytes; and after it
the encoder, written from the opcode lists of rule R85. -/

namespace Sys2Proof

/-! ## The decoder -/

/-- An entry of the decoder's table, "tagged operation descriptors (256 entries, one per possible opcode byte, with an
explicit "illegal" tag for unassigned codes)" (rule R80): how many operand bytes follow and the instruction they make. -/
inductive OpDesc where
  | one (i : Instr)
  | byte (f : Byte → Instr)
  | word (f : Addr → Instr)
  | illegal

/-- The modes as table entries: each takes the constructor to which it gives the operand (rule R81). -/
def OpDesc.zp (k : MemMode → Instr) : OpDesc := .byte fun n => k (.zp n)
/-- Mode ZPX. -/
def OpDesc.zpx (k : MemMode → Instr) : OpDesc := .byte fun n => k (.zpx n)
/-- Mode ZPY. -/
def OpDesc.zpy (k : MemMode → Instr) : OpDesc := .byte fun n => k (.zpy n)
/-- Mode ABS. -/
def OpDesc.abs (k : MemMode → Instr) : OpDesc := .word fun a => k (.abs a)
/-- Mode ABSX. -/
def OpDesc.absx (k : MemMode → Instr) : OpDesc := .word fun a => k (.absx a)
/-- Mode ABSY. -/
def OpDesc.absy (k : MemMode → Instr) : OpDesc := .word fun a => k (.absy a)
/-- Mode INDX. -/
def OpDesc.indx (k : MemMode → Instr) : OpDesc := .byte fun n => k (.indx n)
/-- Mode INDY. -/
def OpDesc.indy (k : MemMode → Instr) : OpDesc := .byte fun n => k (.indy n)
/-- Mode IMM. -/
def OpDesc.imm (k : Operand → Instr) : OpDesc := .byte fun n => k (.imm n)
/-- Mode ACC. -/
def OpDesc.acc (k : Target → Instr) : OpDesc := .one (k .acc)
/-- A memory mode of an instruction that reads its operand. -/
def OpDesc.rd (k : Operand → Instr) (m : MemMode) : Instr := k (.mem m)
/-- A memory mode of a shift or rotate. -/
def OpDesc.tg (k : Target → Instr) (m : MemMode) : Instr := k (.mem m)
/-- A byte that spells no instruction (rule R86). -/
def OpDesc.ill : OpDesc := .illegal

section
open OpDesc

/-- Row 0x of the map of rule R84. -/
def row0 : List OpDesc :=
  [.one .brk, indx (rd .ora), ill, ill,
   ill, zp (rd .ora), zp (tg .asl), ill,
   .one .php, imm .ora, acc .asl, ill,
   ill, abs (rd .ora), abs (tg .asl), ill]

/-- Row 1x of the map of rule R84. -/
def row1 : List OpDesc :=
  [.byte .bpl, indy (rd .ora), ill, ill,
   ill, zpx (rd .ora), zpx (tg .asl), ill,
   .one .clc, absy (rd .ora), ill, ill,
   ill, absx (rd .ora), absx (tg .asl), ill]

/-- Row 2x of the map of rule R84. -/
def row2 : List OpDesc :=
  [.word .jsr, indx (rd .and), ill, ill,
   zp .bit, zp (rd .and), zp (tg .rol), ill,
   .one .plp, imm .and, acc .rol, ill,
   abs .bit, abs (rd .and), abs (tg .rol), ill]

/-- Row 3x of the map of rule R84. -/
def row3 : List OpDesc :=
  [.byte .bmi, indy (rd .and), ill, ill,
   ill, zpx (rd .and), zpx (tg .rol), ill,
   .one .sec, absy (rd .and), ill, ill,
   ill, absx (rd .and), absx (tg .rol), ill]

/-- Row 4x of the map of rule R84. -/
def row4 : List OpDesc :=
  [.one .rti, indx (rd .eor), ill, ill,
   ill, zp (rd .eor), zp (tg .lsr), ill,
   .one .pha, imm .eor, acc .lsr, ill,
   .word .jmpAbs, abs (rd .eor), abs (tg .lsr), ill]

/-- Row 5x of the map of rule R84. -/
def row5 : List OpDesc :=
  [.byte .bvc, indy (rd .eor), ill, ill,
   ill, zpx (rd .eor), zpx (tg .lsr), ill,
   .one .cli, absy (rd .eor), ill, ill,
   ill, absx (rd .eor), absx (tg .lsr), ill]

/-- Row 6x of the map of rule R84. -/
def row6 : List OpDesc :=
  [.one .rts, indx (rd .adc), ill, ill,
   ill, zp (rd .adc), zp (tg .ror), ill,
   .one .pla, imm .adc, acc .ror, ill,
   .word .jmpInd, abs (rd .adc), abs (tg .ror), ill]

/-- Row 7x of the map of rule R84. -/
def row7 : List OpDesc :=
  [.byte .bvs, indy (rd .adc), ill, ill,
   ill, zpx (rd .adc), zpx (tg .ror), ill,
   .one .sei, absy (rd .adc), ill, ill,
   ill, absx (rd .adc), absx (tg .ror), ill]

/-- Row 8x of the map of rule R84. -/
def row8 : List OpDesc :=
  [ill, indx .sta, ill, ill,
   zp .sty, zp .sta, zp .stx, ill,
   .one .dey, ill, .one .txa, ill,
   abs .sty, abs .sta, abs .stx, ill]

/-- Row 9x of the map of rule R84. -/
def row9 : List OpDesc :=
  [.byte .bcc, indy .sta, ill, ill,
   zpx .sty, zpx .sta, zpy .stx, ill,
   .one .tya, absy .sta, .one .txs, ill,
   ill, absx .sta, ill, ill]

/-- Row Ax of the map of rule R84. -/
def rowA : List OpDesc :=
  [imm .ldy, indx (rd .lda), imm .ldx, ill,
   zp (rd .ldy), zp (rd .lda), zp (rd .ldx), ill,
   .one .tay, imm .lda, .one .tax, ill,
   abs (rd .ldy), abs (rd .lda), abs (rd .ldx), ill]

/-- Row Bx of the map of rule R84. -/
def rowB : List OpDesc :=
  [.byte .bcs, indy (rd .lda), ill, ill,
   zpx (rd .ldy), zpx (rd .lda), zpy (rd .ldx), ill,
   .one .clv, absy (rd .lda), .one .tsx, ill,
   absx (rd .ldy), absx (rd .lda), absy (rd .ldx), ill]

/-- Row Cx of the map of rule R84. -/
def rowC : List OpDesc :=
  [imm .cpy, indx (rd .cmp), ill, ill,
   zp (rd .cpy), zp (rd .cmp), zp .dec, ill,
   .one .iny, imm .cmp, .one .dex, ill,
   abs (rd .cpy), abs (rd .cmp), abs .dec, ill]

/-- Row Dx of the map of rule R84. -/
def rowD : List OpDesc :=
  [.byte .bne, indy (rd .cmp), ill, ill,
   ill, zpx (rd .cmp), zpx .dec, ill,
   .one .cld, absy (rd .cmp), ill, ill,
   ill, absx (rd .cmp), absx .dec, ill]

/-- Row Ex of the map of rule R84. -/
def rowE : List OpDesc :=
  [imm .cpx, indx (rd .sbc), ill, ill,
   zp (rd .cpx), zp (rd .sbc), zp .inc, ill,
   .one .inx, imm .sbc, .one .nop, ill,
   abs (rd .cpx), abs (rd .sbc), abs .inc, ill]

/-- Row Fx of the map of rule R84. -/
def rowF : List OpDesc :=
  [.byte .beq, indy (rd .sbc), ill, ill,
   ill, zpx (rd .sbc), zpx .inc, ill,
   .one .sed, absy (rd .sbc), ill, ill,
   ill, absx (rd .sbc), absx .inc, ill]

end

/-- The map of rule R84: row by high nibble, column by low nibble. -/
def opcodeMap : List (List OpDesc) :=
  [row0, row1, row2, row3] ++
  [row4, row5, row6, row7] ++
  [row8, row9, rowA, rowB] ++
  [rowC, rowD, rowE, rowF]

/-- `Decode(op)` (spec/40_dispatch_addressing.md rule R112): the opcode byte alone decides. -/
def descriptor (op : Byte) : OpDesc :=
  (opcodeMap.getD (op.toNat / 16) []).getD (op.toNat % 16) .illegal

/-- Why bytes hold no whole instruction. The machine never meets either: it fetches as many bytes as the opcode asks
for (rule R111). -/
inductive DecodeError where
  /-- There is no byte to decode. -/
  | noOpcodeByte
  /-- The opcode byte asks for more operand bytes than there are (rule R80). -/
  | operandMissing (op : Byte)
  deriving DecidableEq, Repr

/-- The decoder's answer: the instruction with the bytes after it, or a rejection by name. -/
inductive Decoded where
  | ok (i : Instr) (rest : List Byte)
  | reject (e : DecodeError)
  deriving DecidableEq, Repr

/-- Decoding the operand bytes of an entry of the table, a 16-bit operand "low byte first" (rule R82). -/
def decodeOperands (op : Byte) : OpDesc → List Byte → Decoded
  | .illegal, rest => .ok (.illegal op) rest
  | .one i, rest => .ok i rest
  | .byte f, n :: rest => .ok (f n) rest
  | .word f, lo :: hi :: rest => .ok (f (joinBytes hi lo)) rest
  | .byte _, [] => .reject (.operandMissing op)
  | .word _, [] => .reject (.operandMissing op)
  | .word _, [_] => .reject (.operandMissing op)

/-- The decoder: the first instruction of the bytes, and the bytes after it (rule R80). -/
def decode : List Byte → Decoded
  | [] => .reject .noOpcodeByte
  | op :: rest => decodeOperands op (descriptor op) rest

/-- The instruction of a decoder's answer. -/
def Decoded.instr? : Decoded → Option Instr
  | .ok i _ => some i
  | .reject _ => none

/-- The three bytes of an instruction whose bits are `w`, bit 0 the least significant bit of the opcode byte and a later
byte's bits counting on from it; every bit from `nbits` up is 0. Three bytes are the longest instruction (rule R81). -/
def tableBytes (nbits w : Nat) : List Byte :=
  let v := w % 2 ^ nbits
  [BitVec.ofNat 8 v, BitVec.ofNat 8 (v / 256), BitVec.ofNat 8 (v / 65536)]

/-- What the decoder reads from a word of spec/opcode_table.json. -/
def decodeTableWord (nbits w : Nat) : Option Instr :=
  (decode (tableBytes nbits w)).instr?

/-! ## The encoder -/

/-- The opcodes of ADC, SBC, AND, ORA, EOR, CMP and LDA, in the order of rule R85's lists. -/
def opcodesRead (imm zp zpx abs absx absy indx indy : Byte) : Operand → Option Byte
  | .imm _ => some imm
  | .mem (.zp _) => some zp
  | .mem (.zpx _) => some zpx
  | .mem (.zpy _) => none
  | .mem (.abs _) => some abs
  | .mem (.absx _) => some absx
  | .mem (.absy _) => some absy
  | .mem (.indx _) => some indx
  | .mem (.indy _) => some indy

/-- The opcodes of LDX: IMM, ZP, ZPY, ABS, ABSY. -/
def opcodesLdx (imm zp zpy abs absy : Byte) : Operand → Option Byte
  | .imm _ => some imm
  | .mem (.zp _) => some zp
  | .mem (.zpy _) => some zpy
  | .mem (.abs _) => some abs
  | .mem (.absy _) => some absy
  | .mem (.zpx _) | .mem (.absx _) | .mem (.indx _) | .mem (.indy _) => none

/-- The opcodes of LDY: IMM, ZP, ZPX, ABS, ABSX. -/
def opcodesLdy (imm zp zpx abs absx : Byte) : Operand → Option Byte
  | .imm _ => some imm
  | .mem (.zp _) => some zp
  | .mem (.zpx _) => some zpx
  | .mem (.abs _) => some abs
  | .mem (.absx _) => some absx
  | .mem (.zpy _) | .mem (.absy _) | .mem (.indx _) | .mem (.indy _) => none

/-- The opcodes of CPX and CPY: IMM, ZP, ABS. -/
def opcodesCmpXY (imm zp abs : Byte) : Operand → Option Byte
  | .imm _ => some imm
  | .mem (.zp _) => some zp
  | .mem (.abs _) => some abs
  | .mem (.zpx _) | .mem (.zpy _) | .mem (.absx _) | .mem (.absy _) | .mem (.indx _) | .mem (.indy _) => none

/-- The opcodes of BIT: ZP, ABS. -/
def opcodesBit (zp abs : Byte) : MemMode → Option Byte
  | .zp _ => some zp
  | .abs _ => some abs
  | .zpx _ | .zpy _ | .absx _ | .absy _ | .indx _ | .indy _ => none

/-- The memory opcodes of the read-modify-write instructions: ZP, ZPX, ABS, ABSX. -/
def opcodesRmw (zp zpx abs absx : Byte) : MemMode → Option Byte
  | .zp _ => some zp
  | .zpx _ => some zpx
  | .abs _ => some abs
  | .absx _ => some absx
  | .zpy _ | .absy _ | .indx _ | .indy _ => none

/-- The opcodes of ASL, LSR, ROL and ROR: ACC, ZP, ZPX, ABS, ABSX. -/
def opcodesShift (acc zp zpx abs absx : Byte) : Target → Option Byte
  | .acc => some acc
  | .mem m => opcodesRmw zp zpx abs absx m

/-- The opcodes of STA: ZP, ZPX, ABS, ABSX, ABSY, INDX, INDY. -/
def opcodesSta (zp zpx abs absx absy indx indy : Byte) : MemMode → Option Byte
  | .zp _ => some zp
  | .zpx _ => some zpx
  | .zpy _ => none
  | .abs _ => some abs
  | .absx _ => some absx
  | .absy _ => some absy
  | .indx _ => some indx
  | .indy _ => some indy

/-- The opcodes of STX: ZP, ZPY, ABS. -/
def opcodesStx (zp zpy abs : Byte) : MemMode → Option Byte
  | .zp _ => some zp
  | .zpy _ => some zpy
  | .abs _ => some abs
  | .zpx _ | .absx _ | .absy _ | .indx _ | .indy _ => none

/-- The opcodes of STY: ZP, ZPX, ABS. -/
def opcodesSty (zp zpx abs : Byte) : MemMode → Option Byte
  | .zp _ => some zp
  | .zpx _ => some zpx
  | .abs _ => some abs
  | .zpy _ | .absx _ | .absy _ | .indx _ | .indy _ => none

/-- The opcode byte of an instruction (rule R85); none where the map has no row for its mode. -/
def Instr.opcode : Instr → Option Byte
  | .adc o => opcodesRead 0x69 0x65 0x75 0x6D 0x7D 0x79 0x61 0x71 o
  | .sbc o => opcodesRead 0xE9 0xE5 0xF5 0xED 0xFD 0xF9 0xE1 0xF1 o
  | .and o => opcodesRead 0x29 0x25 0x35 0x2D 0x3D 0x39 0x21 0x31 o
  | .ora o => opcodesRead 0x09 0x05 0x15 0x0D 0x1D 0x19 0x01 0x11 o
  | .eor o => opcodesRead 0x49 0x45 0x55 0x4D 0x5D 0x59 0x41 0x51 o
  | .cmp o => opcodesRead 0xC9 0xC5 0xD5 0xCD 0xDD 0xD9 0xC1 0xD1 o
  | .cpx o => opcodesCmpXY 0xE0 0xE4 0xEC o
  | .cpy o => opcodesCmpXY 0xC0 0xC4 0xCC o
  | .bit m => opcodesBit 0x24 0x2C m
  | .asl t => opcodesShift 0x0A 0x06 0x16 0x0E 0x1E t
  | .lsr t => opcodesShift 0x4A 0x46 0x56 0x4E 0x5E t
  | .rol t => opcodesShift 0x2A 0x26 0x36 0x2E 0x3E t
  | .ror t => opcodesShift 0x6A 0x66 0x76 0x6E 0x7E t
  | .inc m => opcodesRmw 0xE6 0xF6 0xEE 0xFE m
  | .dec m => opcodesRmw 0xC6 0xD6 0xCE 0xDE m
  | .inx => some 0xE8
  | .iny => some 0xC8
  | .dex => some 0xCA
  | .dey => some 0x88
  | .lda o => opcodesRead 0xA9 0xA5 0xB5 0xAD 0xBD 0xB9 0xA1 0xB1 o
  | .ldx o => opcodesLdx 0xA2 0xA6 0xB6 0xAE 0xBE o
  | .ldy o => opcodesLdy 0xA0 0xA4 0xB4 0xAC 0xBC o
  | .sta m => opcodesSta 0x85 0x95 0x8D 0x9D 0x99 0x81 0x91 m
  | .stx m => opcodesStx 0x86 0x96 0x8E m
  | .sty m => opcodesSty 0x84 0x94 0x8C m
  | .tax => some 0xAA
  | .tay => some 0xA8
  | .txa => some 0x8A
  | .tya => some 0x98
  | .tsx => some 0xBA
  | .txs => some 0x9A
  | .pha => some 0x48
  | .php => some 0x08
  | .pla => some 0x68
  | .plp => some 0x28
  | .jmpAbs _ => some 0x4C
  | .jmpInd _ => some 0x6C
  | .jsr _ => some 0x20
  | .rts => some 0x60
  | .bpl _ => some 0x10
  | .bmi _ => some 0x30
  | .bvc _ => some 0x50
  | .bvs _ => some 0x70
  | .bcc _ => some 0x90
  | .bcs _ => some 0xB0
  | .bne _ => some 0xD0
  | .beq _ => some 0xF0
  | .clc => some 0x18
  | .sec => some 0x38
  | .cli => some 0x58
  | .sei => some 0x78
  | .cld => some 0xD8
  | .sed => some 0xF8
  | .clv => some 0xB8
  | .nop => some 0xEA
  | .brk => some 0x00
  | .rti => some 0x40
  | .illegal op => if illegalBytes.contains op then some op else none

/-- A 16-bit operand in memory order, "low byte first" (rule R82). -/
def wordBytes (w : Addr) : List Byte := [loByte w, hiByte w]

/-- The operand bytes of a memory mode (rule R81). -/
def MemMode.bytes : MemMode → List Byte
  | .zp n | .zpx n | .zpy n | .indx n | .indy n => [n]
  | .abs a | .absx a | .absy a => wordBytes a

/-- The operand bytes of an operand that is read. -/
def Operand.bytes : Operand → List Byte
  | .imm n => [n]
  | .mem m => m.bytes

/-- The operand bytes of the target of a shift or rotate. -/
def Target.bytes : Target → List Byte
  | .acc => []
  | .mem m => m.bytes

/-- The operand bytes of an instruction, those after its opcode byte (rule R81). -/
def Instr.operandBytes : Instr → List Byte
  | .adc o | .sbc o | .and o | .ora o | .eor o | .cmp o | .cpx o | .cpy o | .lda o | .ldx o | .ldy o => o.bytes
  | .bit m | .inc m | .dec m | .sta m | .stx m | .sty m => m.bytes
  | .asl t | .lsr t | .rol t | .ror t => t.bytes
  | .jmpAbs a | .jmpInd a | .jsr a => wordBytes a
  | .bpl r | .bmi r | .bvc r | .bvs r | .bcc r | .bcs r | .bne r | .beq r => [r]
  | .inx | .iny | .dex | .dey => []
  | .tax | .tay | .txa | .tya | .tsx | .txs => []
  | .pha | .php | .pla | .plp | .rts => []
  | .clc | .sec | .cli | .sei | .cld | .sed | .clv | .nop | .brk | .rti => []
  | .illegal _ => []

/-- The encoder: the bytes of an instruction, none where it is not well formed (rules R80, R85). -/
def encode (i : Instr) : Option (List Byte) :=
  i.opcode.map (· :: i.operandBytes)

/-- The length of an instruction in bytes (rule R81). -/
def Instr.length (i : Instr) : Nat := 1 + i.operandBytes.length

end Sys2Proof
end

