-- ==== Sys2Proof/Config.lean ====
section
/-! DEFINITION. What one core instance fixes: the operating-mode strap and the parameters of spec/00_scope.md rule R8
that select a behaviour. The numeric parameters (addresses, reset values) are in Machine/Layout.lean. -/

namespace Sys2Proof

/-- The operating mode, "a closed choice between two addressing-bug-compatibility strategies, fixed for the lifetime of
a CPU instance" (spec/10_state.md rule R33). `modern` is mode A, `legacy` is mode B. -/
inductive OperatingMode where
  | modern
  | legacy
  deriving DecidableEq, Repr

/-- `ILLEGAL_POLICY` (spec/30_encoding.md rule R88): what an opcode byte that spells no instruction does. -/
inductive IllegalPolicy where
  | nop
  | fault
  deriving DecidableEq, Repr

/-- `DECIMAL_POLICY` (spec/41_alu.md rule R150, spec/60_exceptions.md rule R381): what ADC and SBC do with D set. -/
inductive DecimalPolicy where
  | binary
  | fault
  deriving DecidableEq, Repr

/-- The parameters fixed per core instance (rules R3, R8, R33). No step changes them.
DESIGN CHOICE (notes/assumptions/1.md, safe): the machine carries them inside its state. -/
structure Config where
  /-- `OPERATING_MODE` (rule R33); read by the absolute-indirect jump alone (rule R121). -/
  mode : OperatingMode
  /-- `ZP_PTR_WRAP` (rule R123): where the high byte of a zero-page pointer at 0x00FF is read. -/
  zpPtrWrap : Bool
  /-- `ILLEGAL_POLICY` (rule R88). -/
  illegalPolicy : IllegalPolicy
  /-- `DECIMAL_POLICY` (rule R150). -/
  decimalPolicy : DecimalPolicy
  deriving DecidableEq, Repr

/-- The value of `ZP_PTR_WRAP` in the instance that `State.reset` describes. The spec leaves it OPEN
(spec/92_eei_decisions.md D8: "Do not assume either value"), so it has no body and nothing can be proved of it.
DESIGN CHOICE (notes/assumptions/3.md, safe). -/
opaque Config.openZpPtrWrap : Bool

/-- Default construction: mode modern, both policies at the source's behaviour (rules R8, R411). -/
def Config.standard : Config where
  mode := .modern
  zpPtrWrap := Config.openZpPtrWrap
  illegalPolicy := .nop
  decimalPolicy := .binary

end Sys2Proof
end

