-- ==== Sys2Proof/Machine/Layout.lean ====
section
/-! DEFINITION. The fixed numbers of the address map and of reset (spec/00_scope.md rule R8, spec/20_memory.md rule R57).
The source gives them in words only; the numbers are the spec's decisions D2 to D5, kept as named constants as
spec/93_implementation_defined.md K4 to K6 ask. UNVERIFIED (notes/assumptions/8.md, unsafe). -/

namespace Sys2Proof

/-- `RESET_PC` (rules R8, R411). -/
def resetPc : Addr := 0xFFFC

/-- `SP_RESET`, "top of the page" (rules R8, R24). -/
def spReset : Byte := 0xFF

/-- `STACK_BASE`: the stack page is 0x0100 to 0x01FF (rules R8, R57). -/
def stackBase : Addr := 0x0100

/-- `IRQ_VECTOR`: the vector's low byte at 0xFFFE, its high byte at 0xFFFF (rules R8, R57). -/
def irqVector : Addr := 0xFFFE

end Sys2Proof
end

