-- ==== Sys2Proof/Machine/State.lean ====
section
/-! DEFINITION. The state of the machine as plain data, the reasons a step can stop, and the state after reset
(spec/10_state.md, spec/70_reset_and_hazards.md). -/

namespace Sys2Proof.Machine

/-- The status flags, "seven independent booleans" (spec/10_state.md rule R26). Bit 5 of the status byte is no flag:
it "always reads 0" and has no storage. -/
structure Flags where
  /-- Negative, bit 7. -/
  n : Bool
  /-- Overflow, bit 6. -/
  v : Bool
  /-- Break, bit 4: real, stored state (rule R27). -/
  b : Bool
  /-- Decimal, bit 3 (rule R28). -/
  d : Bool
  /-- Interrupt-disable, bit 2 (rule R28). -/
  i : Bool
  /-- Zero, bit 1. -/
  z : Bool
  /-- Carry, bit 0. -/
  c : Bool
  deriving DecidableEq, Repr

/-- The 65536 bytes of memory (spec/20_memory.md rule R51): the bytes that are not 0x00, by strictly rising address.
An address that is not listed reads 0x00. DESIGN CHOICE (notes/assumptions/4.md, unsafe). -/
abbrev Memory := List Host.Cell

/-- The state. `a` to `p` are the core's architectural state, "exactly" that of spec/10_state.md rule R20; `mem` is the
host's memory (rule R35), which a dispatch borrows. -/
structure State where
  /-- The accumulator `A` (rule R21). -/
  a : Byte
  /-- Index register `X` (rule R22). -/
  x : Byte
  /-- Index register `Y` (rule R23). -/
  y : Byte
  /-- The stack pointer `SP`, an offset into the stack page (rule R24). -/
  sp : Byte
  /-- The program counter `PC` (rule R25). -/
  pc : Addr
  /-- The status flags, together the status byte `P` (rule R26). -/
  p : Flags
  /-- The memory (spec/20_memory.md rules R50 to R52). -/
  mem : Memory
  /-- The instance's parameters, which no step changes (rule R33).
  DESIGN CHOICE (notes/assumptions/1.md, safe). -/
  cfg : Config
  /-- The caller's cycle budget: what the next dispatch is given, and after it what it returned (rules R34, R110).
  DESIGN CHOICE (notes/assumptions/2.md, safe). -/
  budget : Int
  deriving DecidableEq, Repr

/-- Why a dispatch ends in a fault outcome, reported to the host (spec/60_exceptions.md rule R380). Neither can happen
under the default parameters. -/
inductive Fault where
  /-- Code 1, `IllegalOpcode`: raised by `execIllegal` for the bytes of rule R86 under `ILLEGAL_POLICY = fault`, with the
  opcode byte and its address. Safe: it is the spec's own outcome (rules R88, R380). -/
  | illegalOpcode (op : Byte) (addr : Addr)
  /-- Code 2, `DecimalUnsupported`: raised by ADC and SBC under `DECIMAL_POLICY = fault` with D set, with the opcode byte
  and its address. Safe: it is the spec's own outcome (rules R150, R151, R380). -/
  | decimalUnsupported (op : Byte) (addr : Addr)
  deriving DecidableEq, Repr

/-- The fault's code in the table of rule R380. -/
def Fault.code : Fault → Nat
  | .illegalOpcode _ _ => 1
  | .decimalUnsupported _ _ => 2

/-- Why a dispatch ends without a meaning. -/
inductive Refusal where
  /-- The instruction has no meaning in this model. Raised by no arm: every instruction has its meaning. Safe. -/
  | notModelled (mnemonic : String)
  deriving DecidableEq, Repr

/-- What a dispatch answers. -/
abbrev Result := Host.Outcome State Fault Refusal

/-- The machine right after default construction (spec/70_reset_and_hazards.md rule R411): `PC` at the reset address, `SP`
at the top of its page, registers 0, flags empty, mode modern. The memory is as after `clear()`
(notes/assumptions/4.md) and the budget is 0 (notes/assumptions/2.md), both DESIGN CHOICE. -/
def State.reset : State where
  a := 0
  x := 0
  y := 0
  sp := spReset
  pc := resetPc
  p := ⟨false, false, false, false, false, false, false⟩
  mem := []
  cfg := Config.standard
  budget := 0

end Sys2Proof.Machine
end

