-- ==== Sys2Proof/Machine/Flags.lean ====
section
/-! DEFINITION. Every flag computation: pure functions of flags and bytes (spec/10_state.md rules R26 to R32,
spec/41_alu.md, spec/42_shift_incdec.md). -/

namespace Sys2Proof.Machine

/-- All seven flags 0, "flags = empty" (spec/70_reset_and_hazards.md rule R411). -/
def Flags.empty : Flags := ⟨false, false, false, false, false, false, false⟩

/-- `SetZN(v)` (spec/10_state.md rule R30). -/
def Flags.setZN (p : Flags) (v : Byte) : Flags := { p with z := v == 0, n := v.getLsbD 7 }

/-- `PackP()` (rule R31): bit 5 is 0. -/
def Flags.pack (p : Flags) : Byte :=
  let bit (b : Bool) (k : Nat) : Byte := (BitVec.ofBool b).zeroExtend 8 <<< k
  bit p.n 7 ||| bit p.v 6 ||| bit p.b 4 ||| bit p.d 3 ||| bit p.i 2 ||| bit p.z 1 ||| bit p.c 0

/-- `UnpackP(b)` (rule R32): bit 5 is discarded. -/
def Flags.unpack (b : Byte) : Flags where
  n := b.getLsbD 7
  v := b.getLsbD 6
  b := b.getLsbD 4
  d := b.getLsbD 3
  i := b.getLsbD 2
  z := b.getLsbD 1
  c := b.getLsbD 0

/-! ## Add with carry (spec/41_alu.md rule R150) -/

/-- The sum of ADC "in a widened integer". -/
def adcSum (a m : Byte) (c : Bool) : Nat := a.toNat + m.toNat + bitNat c

/-- The result byte, the low 8 bits of the sum. -/
def adcResult (a m : Byte) (c : Bool) : Byte := BitVec.ofNat 8 (adcSum a m c)

/-- The flags after ADC: "Carry = (sum > 0xFF)"; Overflow iff operand and A had the same sign and the result another. -/
def Flags.afterAdc (p : Flags) (a m : Byte) : Flags :=
  let r := adcResult a m p.c
  let v := (a.getLsbD 7 == m.getLsbD 7) && (r.getLsbD 7 != a.getLsbD 7)
  Flags.setZN { p with c := decide (adcSum a m p.c > 0xFF), v := v } r

/-! ## Compare and bit test (rules R155, R158) -/

/-- `Compare(reg, M)`: unsigned comparison for C, equality for Z, the truncated difference's bit 7 for N. -/
def Flags.afterCompare (p : Flags) (reg m : Byte) : Flags :=
  { p with c := decide (m.toNat ≤ reg.toNat), z := reg == m, n := (reg - m).getLsbD 7 }

/-- `BIT(M)`: N and V from the operand, Z from `A AND M` (90_conflicts.md C4). -/
def Flags.afterBit (p : Flags) (a m : Byte) : Flags :=
  { p with n := m.getLsbD 7, v := m.getLsbD 6, z := (a &&& m) == 0 }

/-! ## Shifts and rotates (spec/42_shift_incdec.md rules R200 to R203): the result and the outgoing carry -/

/-- `f_ASL`. -/
def shiftAsl (_ : Bool) (v : Byte) : Byte × Bool := (v <<< 1, v.getLsbD 7)

/-- `f_LSR`. -/
def shiftLsr (_ : Bool) (v : Byte) : Byte × Bool := (v >>> 1, v.getLsbD 0)

/-- `f_ROL`: the previous carry enters at bit 0. -/
def shiftRol (c : Bool) (v : Byte) : Byte × Bool := (v <<< 1 ||| (BitVec.ofBool c).zeroExtend 8, v.getLsbD 7)

/-- `f_ROR`: the previous carry enters at bit 7. -/
def shiftRor (c : Bool) (v : Byte) : Byte × Bool := (v >>> 1 ||| (BitVec.ofBool c).zeroExtend 8 <<< 7, v.getLsbD 0)

end Sys2Proof.Machine
end

