-- ==== Sys2Proof/Machine/Memory.lean ====
section
/-! DEFINITION. Reading and writing one byte of memory, and the memory's canonical form (spec/20_memory.md rules R50 to
R52). Every access of the core is one byte wide (rule R53). -/

namespace Sys2Proof.Machine

/-- The byte at an address: the listed one, or 0x00 where none is listed (notes/assumptions/4.md). -/
def Memory.get : Memory → Nat → Byte
  | [], _ => 0
  | (k, v) :: rest, addr => if k = addr then v else Memory.get rest addr

/-- The memory with nothing listed at an address. -/
def Memory.erase (m : Memory) (addr : Nat) : Memory := m.filter (·.1 ≠ addr)

/-- The memory with a byte listed at an address, before the first higher one. -/
def Memory.insert : Memory → Nat → Byte → Memory
  | [], addr, v => [(addr, v)]
  | (k, w) :: rest, addr, v => if addr < k then (addr, v) :: (k, w) :: rest else (k, w) :: Memory.insert rest addr v

/-- Writing one byte: "a write changes exactly one byte" (rule R52). A byte 0x00 is not listed. -/
def Memory.set (m : Memory) (addr : Nat) (v : Byte) : Memory :=
  if v = 0 then Memory.erase m addr else Memory.insert (Memory.erase m addr) addr v

/-- The canonical form: addresses strictly rising and inside the address space, no listed byte equal to what an unlisted
address reads as. Equal memories are then equal lists. -/
abbrev Memory.wf (m : Memory) : Prop :=
  m.Pairwise (fun c d => c.1 < d.1) ∧ ∀ c ∈ m, c.1 < 65536 ∧ c.2 ≠ 0

/-- `MemRead(addr, 1)` (spec/00_scope.md rule R10). -/
def State.read (s : State) (addr : Addr) : Byte := Memory.get s.mem addr.toNat

/-- `MemWrite(addr, 1, v)` (rule R10). -/
def State.write (s : State) (addr : Addr) (v : Byte) : State := { s with mem := Memory.set s.mem addr.toNat v }

/-- `Read16(a)`, the low byte at the lower address, `a + 1` modulo 2^16 (rules R53, R54). -/
def State.read16 (s : State) (addr : Addr) : Addr := joinBytes (s.read (addr + 1)) (s.read addr)

end Sys2Proof.Machine
end

