-- ==== Sys2Proof/Machine/Ops.lean ====
section
/-! DEFINITION. The named operations on registers, the stack and the program counter; trap entry and return
(spec/10_state.md, spec/20_memory.md section 3, spec/60_exceptions.md section 3). -/

namespace Sys2Proof.Machine

/-! ## Registers -/

/-- The registers an ALU operation can name (spec/10_state.md rule R37): the abort on any other is unreachable because
there is no other here. -/
inductive Reg where
  | a
  | x
  | y
  deriving DecidableEq, Repr

/-- Reading a register. -/
def State.reg (s : State) : Reg → Byte
  | .a => s.a
  | .x => s.x
  | .y => s.y

/-- The Z and N side effect of rule R30. -/
def State.setZN (s : State) (v : Byte) : State := { s with p := s.p.setZN v }

/-- `set_register(reg, value)` (rule R30): "stores value", and sets Z and N from it. -/
def State.setReg (s : State) (r : Reg) (v : Byte) : State :=
  match r with
  | .a => { s with a := v, p := s.p.setZN v }
  | .x => { s with x := v, p := s.p.setZN v }
  | .y => { s with y := v, p := s.p.setZN v }

/-- Writing `SP`, which changes no flag (rule R24). -/
def State.setSp (s : State) (v : Byte) : State := { s with sp := v }

/-- Writing `PC`, which changes no flag (rule R30 with R24's "except PC/SP"). -/
def State.setPc (s : State) (v : Addr) : State := { s with pc := v }

/-- Writing the flags. -/
def State.setFlags (s : State) (p : Flags) : State := { s with p := p }

/-- The carry flag, as the shifts write it. -/
def State.setCarry (s : State) (c : Bool) : State := { s with p := { s.p with c := c } }

/-- Taking an instruction's cost from the budget (spec/40_dispatch_addressing.md rule R110); the budget is never tested
and may go below zero (spec/70_reset_and_hazards.md rule R419). -/
def State.spend (s : State) (cycles : Nat) : State := { s with budget := s.budget - cycles }

/-! ## Fetch -/

/-- `Fetch8()` (spec/40_dispatch_addressing.md rule R111): the byte at `PC`, and `PC` advanced modulo 2^16. -/
def State.fetch8 (s : State) : Byte × State := (s.read s.pc, s.setPc (s.pc + 1))

/-! ## The stack engine (spec/20_memory.md section 3) -/

/-- The address a stack pointer denotes (rule R60). -/
def stackAddr (sp : Byte) : Addr := stackBase + zext16 sp

/-- `Push8(v)`: write, then increment SP modulo 2^8 (rule R60). -/
def State.push8 (s : State) (v : Byte) : State := (s.write (stackAddr s.sp) v).setSp (s.sp + 1)

/-- `Pop8()`: decrement SP modulo 2^8, then read (rule R61). -/
def State.pop8 (s : State) : Byte × State := (s.read (stackAddr (s.sp - 1)), s.setSp (s.sp - 1))

/-- `Push16(w)`: the low byte, then the high byte (rule R62). -/
def State.push16 (s : State) (w : Addr) : State := (s.push8 (loByte w)).push8 (hiByte w)

/-- `Pop16()`: the high byte, then the low byte (rule R62). -/
def State.pop16 (s : State) : Addr × State :=
  let (hi, s₁) := s.pop8
  let (lo, s₂) := s₁.pop8
  (joinBytes hi lo, s₂)

/-! ## Taking an exception, and the return from one -/

/-- Trap entry (spec/60_exceptions.md rule R384, spec/46_flags_system.md rule R358): push the PC, low byte first, then the
status byte as held; load the PC from the interrupt vector, read after the pushes (rule R127); set B. I is not changed. -/
def State.takeBreak (s : State) : State :=
  let s₁ := (s.push16 s.pc).push8 s.p.pack
  (s₁.setPc (s₁.read16 irqVector)).setFlags { s₁.p with b := true }

/-- Trap return (rule R385, spec/46_flags_system.md rule R359): pop the seven flags, then the PC, then clear B. -/
def State.returnFromBreak (s : State) : State :=
  let (b, s₁) := s.pop8
  let (target, s₂) := s₁.pop16
  (s₂.setPc target).setFlags { Flags.unpack b with b := false }

/-! ## Changing a byte in place -/

/-- `ACCF(f)` (spec/42_shift_incdec.md): the carry enters and leaves through the flag, A and Z, N are written. -/
def State.shiftAcc (s : State) (f : Bool → Byte → Byte × Bool) : State :=
  (s.setCarry (f s.p.c s.a).2).setReg .a (f s.p.c s.a).1

/-- `RMW(f)` for a shift or rotate: one read, one write (spec/40_dispatch_addressing.md rule R126), then Z and N. -/
def State.shiftMem (s : State) (f : Bool → Byte → Byte × Bool) (ea : Addr) : State :=
  let r := f s.p.c (s.read ea)
  ((s.setCarry r.2).write ea r.1).setZN r.1

/-- `RMW(f)` for INC and DEC: "no Carry effect" (spec/42_shift_incdec.md rules R204, R205). -/
def State.updateMem (s : State) (f : Byte → Byte) (ea : Addr) : State :=
  let r := f (s.read ea)
  (s.write ea r).setZN r

end Sys2Proof.Machine
end

