-- ==== Sys2Proof/Machine/Operands.lean ====
section
/-! DEFINITION. The addressing-mode resolver (spec/40_dispatch_addressing.md section 2): effective addresses, operands and
page crossings. The state given is the one after the instruction's bytes have been fetched. -/

namespace Sys2Proof.Machine

/-- The address of the high byte of a zero-page pointer at `p` (rule R123). Only a pointer at 0x00FF depends on
`ZP_PTR_WRAP`: true, the byte at 0x0000; false, the byte at 0x0100. -/
def zpPtrHighAddr (wrap : Bool) (p : Byte) : Addr :=
  if p = 0xFF then (if wrap then 0x0000 else 0x0100) else zext16 (p + 1)

/-- `ReadZpPtr(p)` (rule R123). -/
def State.readZpPtr (s : State) (p : Byte) : Addr :=
  joinBytes (s.read (zpPtrHighAddr s.cfg.zpPtrWrap p)) (s.read (zext16 p))

/-- The address before the index of `ABSX`, `ABSY` and `INDY` is added, the "preceding address" of the page-crossing test
(rules R118, R120, R124). "No other mode tests for a crossing" (rule R124). -/
def State.indexBase (s : State) : MemMode → Option Addr
  | .absx a | .absy a => some a
  | .indy n => some (s.readZpPtr n)
  | .zp _ | .zpx _ | .zpy _ | .abs _ | .indx _ => none

/-- The effective address `EA` (rules R115 to R120). -/
def State.ea (s : State) : MemMode → Addr
  | .zp n => zext16 n
  | .zpx n => zext16 (n + s.x)
  | .zpy n => zext16 (n + s.y)
  | .abs a => a
  | .absx a => a + zext16 s.x
  | .absy a => a + zext16 s.y
  | .indx n => s.readZpPtr (n + s.x)
  | .indy n => s.readZpPtr n + zext16 s.y

/-- The page-crossing test (rules R118, R120, R124): the high byte changes. -/
def State.crossed (s : State) (m : MemMode) : Bool :=
  match s.indexBase m with
  | some base => hiByte base != hiByte (s.ea m)
  | none => false

/-- `Operand(mode)` (rule R126): the immediate byte, or one read at `EA`. -/
def State.operand (s : State) : Operand → Byte
  | .imm n => n
  | .mem m => s.read (s.ea m)

/-- The target of the absolute-indirect jump (rule R121). Mode A reads the high byte at `ptr + 1`; mode B, for a pointer
whose low byte is 0xFF, at the start of the same page. -/
def State.indirectTarget (s : State) (ptr : Addr) : Addr :=
  let hiAddr := if s.cfg.mode = .legacy ∧ loByte ptr = 0xFF then ptr &&& 0xFF00 else ptr + 1
  joinBytes (s.read hiAddr) (s.read ptr)

/-- The target of a branch (rule R122); the PC is the address after the offset byte. -/
def State.branchTarget (s : State) (off : Byte) : Addr := s.pc + sext16 off

end Sys2Proof.Machine
end

