-- ==== Sys2Proof/Machine/Cycles.lean ====
section
/-! DEFINITION. The cycle costs (spec/30_encoding.md rule R85, spec/40_dispatch_addressing.md rules R110, R125). A form
that no row of the opcode map has is given the cost of its class's mode, or 0 where the class has none; no decoded
instruction has such a form. -/

namespace Sys2Proof.Machine

/-- Base cost of a read-class, compare or bit-test instruction. -/
def readCycles : Operand → Nat
  | .imm _ => 2
  | .mem (.zp _) => 3
  | .mem (.zpx _) | .mem (.zpy _) => 4
  | .mem (.abs _) | .mem (.absx _) | .mem (.absy _) => 4
  | .mem (.indx _) => 6
  | .mem (.indy _) => 5

/-- The page-crossing extra of a read-class instruction (rule R125); the modes with no test never cross. -/
def State.pageExtra (s : State) : Operand → Nat
  | .imm _ => 0
  | .mem m => if s.crossed m then 1 else 0

/-- The whole cost of a read-class, compare or bit-test instruction. -/
def State.readCost (s : State) (o : Operand) : Nat := readCycles o + s.pageExtra o

/-- Cost of a store; the indexed modes always pay the extra cycle (rule R125). -/
def storeCycles : MemMode → Nat
  | .zp _ => 3
  | .zpx _ | .zpy _ => 4
  | .abs _ => 4
  | .absx _ | .absy _ => 5
  | .indx _ | .indy _ => 6

/-- Cost of a read-modify-write on memory; `ABSX` always pays the extra cycle (rule R125). -/
def rmwCycles : MemMode → Nat
  | .zp _ => 5
  | .zpx _ => 6
  | .abs _ => 6
  | .absx _ => 7
  | .zpy _ | .absy _ | .indx _ | .indy _ => 0

/-- Cost of a shift or rotate. -/
def shiftCycles : Target → Nat
  | .acc => 2
  | .mem m => rmwCycles m

/-- Cost of a branch (spec/45_control_flow.md rule R324): 2 not taken, 3 taken within the page, 4 across a page. -/
def State.branchCycles (s : State) (taken : Bool) (off : Byte) : Nat :=
  if taken then (if hiByte (s.branchTarget off) = hiByte s.pc then 3 else 4) else 2

end Sys2Proof.Machine
end

