-- ==== Sys2Proof/Machine/Alu.lean ====
section
/-! DEFINITION. The meanings of spec/41_alu.md: ADC, SBC, AND, ORA, EOR, CMP, CPX, CPY, BIT. -/

namespace Sys2Proof.Machine

/-- The condition under which ADC and SBC raise `DecimalUnsupported` (spec/41_alu.md rule R150). -/
abbrev State.decimalFaults (s : State) : Prop := s.cfg.decimalPolicy = .fault ∧ s.p.d = true

/-- The fault of rule R380: the opcode byte of `i` and its address, `i.length` bytes before the PC. The getD is for a form
with no opcode, which is never decoded. -/
def decimalFault (i : Instr) (s : State) : Fault :=
  .decimalUnsupported (i.opcode.getD 0) (s.pc - BitVec.ofNat 16 i.length)

/-- Rule R150's `ADC(M)`: the fault before any register or flag is written, or the binary sum whatever D holds. -/
def addWithCarry (i : Instr) (o : Operand) (m : Byte) (s : State) : Result :=
  if s.decimalFaults then .fault (decimalFault i s)
  else .next (({ s with a := adcResult s.a m s.p.c, p := s.p.afterAdc s.a m } : State).spend (s.readCost o))

/-- The logical operations store "via `set_register`" (rule R152). -/
def logic (f : Byte → Byte → Byte) (o : Operand) (s : State) : Result :=
  .next ((s.setReg .a (f s.a (s.operand o))).spend (s.readCost o))

/-- `Compare(reg, M)` (rule R155). -/
def compare (r : Reg) (o : Operand) (s : State) : Result :=
  .next ((s.setFlags (s.p.afterCompare (s.reg r) (s.operand o))).spend (s.readCost o))

/-- ADC (rule R150). -/
def execAdc (o : Operand) (s : State) : Result := addWithCarry (.adc o) o (s.operand o) s

/-- SBC, "add-with-carry applied to the bitwise complement of the operand" (rule R151). -/
def execSbc (o : Operand) (s : State) : Result := addWithCarry (.sbc o) o (~~~(s.operand o)) s

/-- AND (rule R152). -/
def execAnd (o : Operand) (s : State) : Result := logic (· &&& ·) o s

/-- ORA (rule R153). -/
def execOra (o : Operand) (s : State) : Result := logic (· ||| ·) o s

/-- EOR (rule R154). -/
def execEor (o : Operand) (s : State) : Result := logic (· ^^^ ·) o s

/-- CMP (rule R155). -/
def execCmp (o : Operand) (s : State) : Result := compare .a o s

/-- CPX (rule R156). -/
def execCpx (o : Operand) (s : State) : Result := compare .x o s

/-- CPY (rule R157). -/
def execCpy (o : Operand) (s : State) : Result := compare .y o s

/-- BIT (rule R158). -/
def execBit (m : MemMode) (s : State) : Result :=
  .next ((s.setFlags (s.p.afterBit s.a (s.operand (.mem m)))).spend (s.readCost (.mem m)))

end Sys2Proof.Machine
end

