-- ==== Sys2Proof/Machine/Control.lean ====
section
/-! DEFINITION. The meanings of spec/45_control_flow.md: jumps, subroutines and branches. The PC of the state given is the
address after the instruction's bytes. -/

namespace Sys2Proof.Machine

/-- `Branch(cond)` (rule R324). -/
def branch (taken : Bool) (off : Byte) (s : State) : Result :=
  .next ((if taken then s.setPc (s.branchTarget off) else s).spend (s.branchCycles taken off))

/-- JMP absolute (rule R320). -/
def execJmpAbs (addr : Addr) (s : State) : Result := .next ((s.setPc addr).spend 3)

/-- JMP indirect (rule R321). -/
def execJmpInd (ptr : Addr) (s : State) : Result := .next ((s.setPc (s.indirectTarget ptr)).spend 5)

/-- JSR: pushes the address of its own last byte (rule R322). -/
def execJsr (addr : Addr) (s : State) : Result := .next (((s.push16 (s.pc - 1)).setPc addr).spend 6)

/-- RTS: the popped address plus one (rule R323). -/
def execRts (s : State) : Result := .next ((s.pop16.2.setPc (s.pop16.1 + 1)).spend 6)

/-- BPL (rule R325). -/
def execBpl (off : Byte) (s : State) : Result := branch (!s.p.n) off s

/-- BMI (rule R326). -/
def execBmi (off : Byte) (s : State) : Result := branch s.p.n off s

/-- BVC (rule R327). -/
def execBvc (off : Byte) (s : State) : Result := branch (!s.p.v) off s

/-- BVS (rule R328). -/
def execBvs (off : Byte) (s : State) : Result := branch s.p.v off s

/-- BCC (rule R329). -/
def execBcc (off : Byte) (s : State) : Result := branch (!s.p.c) off s

/-- BCS (rule R330). -/
def execBcs (off : Byte) (s : State) : Result := branch s.p.c off s

/-- BNE (rule R331). -/
def execBne (off : Byte) (s : State) : Result := branch (!s.p.z) off s

/-- BEQ (rule R332). -/
def execBeq (off : Byte) (s : State) : Result := branch s.p.z off s

end Sys2Proof.Machine
end

