-- ==== Sys2Proof/Machine/LoadStore.lean ====
section
/-! DEFINITION. The meanings of spec/43_load_store_transfer.md: loads, stores and register transfers. -/

namespace Sys2Proof.Machine

/-- A load of register `r` (rules R250 to R252). -/
def load (r : Reg) (o : Operand) (s : State) : Result :=
  .next ((s.setReg r (s.operand o)).spend (s.readCost o))

/-- A store of register `r`: no flag, no read of `EA` (rules R256 to R258). -/
def store (r : Reg) (m : MemMode) (s : State) : Result :=
  .next ((s.write (s.ea m) (s.reg r)).spend (storeCycles m))

/-- LDA (rule R250). -/
def execLda (o : Operand) (s : State) : Result := load .a o s

/-- LDX (rule R251). -/
def execLdx (o : Operand) (s : State) : Result := load .x o s

/-- LDY (rule R252). -/
def execLdy (o : Operand) (s : State) : Result := load .y o s

/-- STA (rule R256). -/
def execSta (m : MemMode) (s : State) : Result := store .a m s

/-- STX (rule R257). -/
def execStx (m : MemMode) (s : State) : Result := store .x m s

/-- STY (rule R258). -/
def execSty (m : MemMode) (s : State) : Result := store .y m s

/-- TAX (rule R260). -/
def execTax (s : State) : Result := .next ((s.setReg .x s.a).spend 2)

/-- TAY (rule R261). -/
def execTay (s : State) : Result := .next ((s.setReg .y s.a).spend 2)

/-- TXA (rule R262). -/
def execTxa (s : State) : Result := .next ((s.setReg .a s.x).spend 2)

/-- TYA (rule R263). -/
def execTya (s : State) : Result := .next ((s.setReg .a s.y).spend 2)

/-- TSX (rule R264). -/
def execTsx (s : State) : Result := .next ((s.setReg .x s.sp).spend 2)

/-- TXS, which sets no flag (rule R265). -/
def execTxs (s : State) : Result := .next ((s.setSp s.x).spend 2)

end Sys2Proof.Machine
end

