-- ==== Sys2Proof/Machine/Shift.lean ====
section
/-! DEFINITION. The meanings of spec/42_shift_incdec.md: ASL, LSR, ROL, ROR, INC, DEC, INX, INY, DEX, DEY. -/

namespace Sys2Proof.Machine

/-- A shift or rotate of the accumulator or of a byte of memory (`ACCF(f)`, `RMW(f)`). -/
def shift (f : Bool → Byte → Byte × Bool) (t : Target) (s : State) : Result :=
  match t with
  | .acc => .next ((s.shiftAcc f).spend (shiftCycles .acc))
  | .mem m => .next ((s.shiftMem f (s.ea m)).spend (shiftCycles (.mem m)))

/-- An increment or decrement of a byte of memory (`RMW(f)`). -/
def update (f : Byte → Byte) (m : MemMode) (s : State) : Result :=
  .next ((s.updateMem f (s.ea m)).spend (rmwCycles m))

/-- ASL (rule R200). -/
def execAsl (t : Target) (s : State) : Result := shift shiftAsl t s

/-- LSR (rule R201). -/
def execLsr (t : Target) (s : State) : Result := shift shiftLsr t s

/-- ROL (rule R202). -/
def execRol (t : Target) (s : State) : Result := shift shiftRol t s

/-- ROR (rule R203). -/
def execRor (t : Target) (s : State) : Result := shift shiftRor t s

/-- INC (rule R204). -/
def execInc (m : MemMode) (s : State) : Result := update (· + 1) m s

/-- DEC (rule R205). -/
def execDec (m : MemMode) (s : State) : Result := update (· - 1) m s

/-- INX (rule R206). -/
def execInx (s : State) : Result := .next ((s.setReg .x (s.x + 1)).spend 2)

/-- INY (rule R207). -/
def execIny (s : State) : Result := .next ((s.setReg .y (s.y + 1)).spend 2)

/-- DEX (rule R208). -/
def execDex (s : State) : Result := .next ((s.setReg .x (s.x - 1)).spend 2)

/-- DEY (rule R209). -/
def execDey (s : State) : Result := .next ((s.setReg .y (s.y - 1)).spend 2)

end Sys2Proof.Machine
end

