-- ==== Sys2Proof/Machine/Stack.lean ====
section
/-! DEFINITION. The meanings of spec/44_stack.md: PHA, PHP, PLA, PLP. -/

namespace Sys2Proof.Machine

/-- PHA (rule R300). -/
def execPha (s : State) : Result := .next ((s.push8 s.a).spend 3)

/-- PHP: B as stored, bit 5 as 0 (rule R301). -/
def execPhp (s : State) : Result := .next ((s.push8 s.p.pack).spend 3)

/-- PLA (rule R302). -/
def execPla (s : State) : Result := .next ((s.pop8.2.setReg .a s.pop8.1).spend 4)

/-- PLP: all seven flags, B among them (rule R303). -/
def execPlp (s : State) : Result := .next ((s.pop8.2.setFlags (Flags.unpack s.pop8.1)).spend 4)

end Sys2Proof.Machine
end

