-- ==== Sys2Proof/Machine/System.lean ====
section
/-! DEFINITION. The meanings of spec/46_flags_system.md (flag instructions, NOP, BRK, RTI) and of the illegal bytes
(spec/30_encoding.md rule R88). -/

namespace Sys2Proof.Machine

/-- CLC (rule R350). -/
def execClc (s : State) : Result := .next ((s.setFlags { s.p with c := false }).spend 2)

/-- SEC (rule R351). -/
def execSec (s : State) : Result := .next ((s.setFlags { s.p with c := true }).spend 2)

/-- CLI (rule R352). -/
def execCli (s : State) : Result := .next ((s.setFlags { s.p with i := false }).spend 2)

/-- SEI (rule R353). -/
def execSei (s : State) : Result := .next ((s.setFlags { s.p with i := true }).spend 2)

/-- CLD (rule R354). -/
def execCld (s : State) : Result := .next ((s.setFlags { s.p with d := false }).spend 2)

/-- SED (rule R355). -/
def execSed (s : State) : Result := .next ((s.setFlags { s.p with d := true }).spend 2)

/-- CLV (rule R356). -/
def execClv (s : State) : Result := .next ((s.setFlags { s.p with v := false }).spend 2)

/-- NOP (rule R357). -/
def execNop (s : State) : Result := .next (s.spend 2)

/-- BRK takes the core's only trap (rule R358). -/
def execBrk (s : State) : Result := .next (s.takeBreak.spend 7)

/-- RTI (rule R359). -/
def execRti (s : State) : Result := .next (s.returnFromBreak.spend 6)

/-- An illegal byte (spec/30_encoding.md rule R88): a no-op of one cycle, or under `ILLEGAL_POLICY = fault` the fault with
the byte and its address, one before the PC. -/
def execIllegal (op : Byte) (s : State) : Result :=
  match s.cfg.illegalPolicy with
  | .nop => .next (s.spend 1)
  | .fault => .fault (.illegalOpcode op (s.pc - 1))

end Sys2Proof.Machine
end

