-- ==== Sys2Proof/Machine/Fetch.lean ====
section
/-! DEFINITION. Fetching one instruction (spec/40_dispatch_addressing.md rules R110 to R112) and placing one where the next
fetch reads. -/

namespace Sys2Proof.Machine

/-- The opcode byte is fetched and decoded, then as many operand bytes as it asks for, low byte first; the answer is the
instruction and the state with the PC after its bytes. -/
def State.fetchInstr (s : State) : Instr × State :=
  let (op, s₁) := s.fetch8
  match descriptor op with
  | .illegal => (.illegal op, s₁)
  | .one i => (i, s₁)
  | .byte f =>
    let (n, s₂) := s₁.fetch8
    (f n, s₂)
  | .word f =>
    let (lo, s₂) := s₁.fetch8
    let (hi, s₃) := s₂.fetch8
    (f (joinBytes hi lo), s₃)

/-- Bytes written at consecutive addresses, each modulo 2^16: how the host writes "a raw byte image" into memory
(spec/70_reset_and_hazards.md rule R414). -/
def State.writeBytes (s : State) (addr : Addr) : List Byte → State
  | [] => s
  | v :: rest => (s.write addr v).writeBytes (addr + 1) rest

end Sys2Proof.Machine
end

