-- ==== Sys2Proof/Machine/Step.lean ====
section
/-! DEFINITION. One dispatch: fetch and decode one instruction, then execute it (spec/40_dispatch_addressing.md rule
R110). -/

namespace Sys2Proof.Machine

/-- `execute_single` on the state's memory and budget (rule R110). -/
def step (s : State) : Host.Outcome State Fault Refusal := exec s.fetchInstr.1 s.fetchInstr.2

/-- The state with the instruction whose bits are `w` stored at the PC, where the next step fetches
(notes/assumptions/12.md). -/
def State.withFetchWord (s : State) (nbits w : Nat) : State := s.writeBytes s.pc (tableBytes nbits w)

end Sys2Proof.Machine
end

