-- ==== Sys2Proof/Machine/HostPort.lean ====
section
/-! DEFINITION. What the host may do, all of it between dispatches (spec/00_scope.md rule R7, spec/20_memory.md rule R58,
spec/92_eei_decisions.md D23, D24). -/

namespace Sys2Proof.Machine

/-- Construction with an operating mode: default construction is `modern`, the alternate constructor `legacy`
(spec/70_reset_and_hazards.md rules R410, R411). -/
def State.construct (mode : OperatingMode) : State :=
  { State.reset with cfg := { Config.standard with mode := mode } }

/-- `reset()` (rules R410 to R412): every register and flag at its reset value; the operating mode and the other
parameters kept, the memory not touched, no cycle consumed. -/
def State.hostReset (s : State) : State :=
  { State.reset with mem := s.mem, cfg := s.cfg, budget := s.budget }

/-- `execute_single(memory, cycle_budget)` (spec/40_dispatch_addressing.md rule R110): the budget of the state it answers
is the remaining budget it returns. -/
def State.executeSingle (s : State) (budget : Int) : Result := step { s with budget := budget }

/-- The memory's `write(address, byte)` used by the host (rule R50). -/
def State.hostWrite (s : State) (addr : Addr) (v : Byte) : State := s.write addr v

/-- The memory's `clear()`, which zero-fills (rule R50). -/
def State.hostClear (s : State) : State := { s with mem := [] }

/-- Loading a raw byte image (rule R414). -/
def State.hostLoad (s : State) (addr : Addr) (image : List Byte) : State := s.writeBytes addr image

end Sys2Proof.Machine
end

