-- ==== Sys2Proof/Safety.lean ====
section
/-! DEFINITION. The terms the statements use: the invariant, the default policies, and who may write what, each written
from the spec's own lists (spec/10_state.md rules R21 to R26, R29) and not from the meanings. -/

namespace Sys2Proof.Machine

/-- The invariant: memory is in its canonical form (notes/assumptions/4.md). -/
abbrev State.Inv (s : State) : Prop := Memory.wf s.mem

/-- The default parameters of spec/60_exceptions.md rule R380, under which "the core raises no synchronous exception". -/
abbrev State.defaultPolicies (s : State) : Prop :=
  s.cfg.illegalPolicy = .nop ∧ s.cfg.decimalPolicy = .binary

/-- The seven flags by name. -/
inductive FlagName where
  | c
  | z
  | i
  | d
  | b
  | v
  | n
  deriving DecidableEq, Repr

/-- One flag of the status. -/
def Flags.flag (p : Flags) : FlagName → Bool
  | .c => p.c
  | .z => p.z
  | .i => p.i
  | .d => p.d
  | .b => p.b
  | .v => p.v
  | .n => p.n

end Sys2Proof.Machine

namespace Sys2Proof

open Machine

/-- The instructions that write C (the table of rule R26). -/
def Instr.writesC : Instr → Bool
  | .adc _ | .sbc _ | .cmp _ | .cpx _ | .cpy _ => true
  | .asl _ | .lsr _ | .rol _ | .ror _ | .clc | .sec | .plp | .rti => true
  | _ => false

/-- The instructions that write Z and N: every write of A, X or Y, the read-modify-writes, the compares, BIT, PLP and RTI
(the table of rule R26). -/
def Instr.writesZN : Instr → Bool
  | .lda _ | .ldx _ | .ldy _ | .tax | .tay | .txa | .tya | .tsx | .pla => true
  | .inx | .iny | .dex | .dey | .adc _ | .sbc _ | .and _ | .ora _ | .eor _ => true
  | .asl _ | .lsr _ | .rol _ | .ror _ | .inc _ | .dec _ => true
  | .cmp _ | .cpx _ | .cpy _ | .bit _ | .plp | .rti => true
  | _ => false

/-- The instructions that write a flag (the table of rule R26). -/
def Instr.writesFlag (i : Instr) : FlagName → Bool
  | .c => i.writesC
  | .z | .n => i.writesZN
  | .i => match i with
    | .cli | .sei | .plp | .rti => true
    | _ => false
  | .d => match i with
    | .cld | .sed | .plp | .rti => true
    | _ => false
  | .b => match i with
    | .brk | .rti | .plp => true
    | _ => false
  | .v => match i with
    | .adc _ | .sbc _ | .bit _ | .clv | .plp | .rti => true
    | _ => false

/-- The instructions that write a register (rules R21, R22, R23). -/
def Instr.writesReg (i : Instr) : Reg → Bool
  | .a => match i with
    | .adc _ | .sbc _ | .and _ | .ora _ | .eor _ | .lda _ | .pla | .txa | .tya => true
    | .asl .acc | .lsr .acc | .rol .acc | .ror .acc => true
    | _ => false
  | .x => match i with
    | .ldx _ | .tax | .tsx | .inx | .dex => true
    | _ => false
  | .y => match i with
    | .ldy _ | .tay | .iny | .dey => true
    | _ => false

/-- The instructions that write SP: the stack engine's and TXS (rule R24). -/
def Instr.writesSp : Instr → Bool
  | .pha | .php | .pla | .plp | .jsr _ | .rts | .brk | .rti | .txs => true
  | _ => false

/-- The instructions that write PC themselves (spec/40_dispatch_addressing.md rule R111): jumps, subroutines, branches,
BRK and RTI. -/
def Instr.writesPc : Instr → Bool
  | .jmpAbs _ | .jmpInd _ | .jsr _ | .rts | .brk | .rti => true
  | .bpl _ | .bmi _ | .bvc _ | .bvs _ | .bcc _ | .bcs _ | .bne _ | .beq _ => true
  | _ => false

/-- The addresses an instruction stores one byte to, in order (spec/40_dispatch_addressing.md rules R126, R127): the
effective address of a store or a read-modify-write, the stack bytes of a push; computed as the meanings compute them, in
the state after the instruction's bytes have been fetched. -/
def Instr.storeAddrs (i : Instr) (s : State) : List Addr :=
  match i with
  | .sta m | .stx m | .sty m | .inc m | .dec m => [s.ea m]
  | .asl (.mem m) | .lsr (.mem m) | .rol (.mem m) | .ror (.mem m) => [s.ea m]
  | .pha | .php => [stackAddr s.sp]
  | .jsr _ => [stackAddr s.sp, stackAddr (s.sp + 1)]
  | .brk => [stackAddr s.sp, stackAddr (s.sp + 1), stackAddr (s.sp + 1 + 1)]
  | _ => []

end Sys2Proof

namespace Sys2Proof.Machine

/-! ## The forms of an instruction, for the statements about encodings (spec/30_encoding.md rules R81, R85) -/

/-- The eight modes of ADC, SBC, AND, ORA, EOR, CMP and LDA, in the order of rule R85's lists: IMM, ZP, ZPX, ABS, ABSX, ABSY,
INDX, INDY. -/
def readForms (n : Byte) (w : Addr) : List Operand :=
  [.imm n, .mem (.zp n), .mem (.zpx n), .mem (.abs w), .mem (.absx w), .mem (.absy w), .mem (.indx n), .mem (.indy n)]

/-- Modes IMM, ZP, ABS of CPX and CPY. -/
def indexCompareForms (n : Byte) (w : Addr) : List Operand := [.imm n, .mem (.zp n), .mem (.abs w)]

/-- Modes ACC, ZP, ZPX, ABS, ABSX of the shifts and rotates. -/
def shiftForms (n : Byte) (w : Addr) : List Target :=
  [.acc, .mem (.zp n), .mem (.zpx n), .mem (.abs w), .mem (.absx w)]

/-- The forms of an instruction have the given opcodes, each followed by the form's operand bytes. -/
def encodedBy {α : Type} (k : α → Instr) (opcodes : List Byte) (forms : List α) : Prop :=
  forms.map (fun f => encode (k f)) = (opcodes.zip forms).map fun q => some (q.1 :: (k q.2).operandBytes)

/-- A step that is not stopped. -/
def runs (r : Result) : Prop := ∃ t, r = .next t

/-- The answer with a function applied to its next state: what relates two runs that differ in one field. -/
def mapNext (f : State → State) : Result → Result
  | .next t => .next (f t)
  | .fault r => .fault r
  | .refused r => .refused r

/-- The three bytes at the PC, as many as the longest instruction has (spec/30_encoding.md rule R81). -/
def State.codeBytes (s : State) : List Byte := [s.read s.pc, s.read (s.pc + 1), s.read (s.pc + 2)]

/-- `n` instructions, one after another, from the state the bytes of each have been fetched in. -/
def execTimes (i : Instr) : Nat → State → Result
  | 0, s => .next s
  | n + 1, s =>
    match exec i s with
    | .next t => execTimes i n t
    | .fault f => .fault f
    | .refused r => .refused r

end Sys2Proof.Machine
end

