-- ==== Sys2Proof/Certificates/Slice0/Obligations.lean ====
section
/-! DEFINITION. The statements for the provers. `s` is a machine state; a statement about `exec` is about the state after
the instruction's bytes have been fetched, whose PC is the address after them (notes/assumptions/5.md). The read-class cost
`s.readCost o`, the effective address `s.ea m` and the operand `s.operand o` are the meanings' own; their values are the
statements EffectiveAddressOfEachMode and PageCrossingExtra. -/

open Sys2Proof Sys2Proof.Machine

/-! ## Encoding (spec/30_encoding.md) -/

/-- Every well-formed instruction is encoded by some bytes, and decoding them, whatever follows, gives it back with the
bytes that follow: no operand bit of an encoding is dropped (rules R81, R82, R85). -/
def Obligations.DecodeOfEncodeIsTheInstruction : Prop :=
  ∀ i : Instr, i.wf = true → ∃ bs, encode i = some bs ∧ ∀ rest, decode (bs ++ rest) = .ok i rest

/-- The other direction: whatever bytes decode are the encoding of the well-formed instruction they decode to, followed by
the rest; each word has one meaning (rule R80). -/
def Obligations.DecodedBytesAreTheEncoding : Prop :=
  ∀ (bs : List Byte) (i : Instr) (rest : List Byte), decode bs = .ok i rest →
    i.wf = true ∧ ∃ es, encode i = some es ∧ bs = es ++ rest

/-- Words written out from rules R81 and R84 decode to the instructions they stand for, one of each family. -/
def Obligations.WordsOfTheMapDecode : Prop :=
  (decode [0x69, 0x50]).instr? = some (.adc (.imm 0x50)) ∧
  (decode [0xFD, 0x34, 0x12]).instr? = some (.sbc (.mem (.absx 0x1234))) ∧
  (decode [0x2A]).instr? = some (.rol .acc) ∧
  (decode [0x7E, 0xF0, 0x12]).instr? = some (.ror (.mem (.absx 0x12F0))) ∧
  (decode [0xA9, 0x2A]).instr? = some (.lda (.imm 0x2A)) ∧
  (decode [0x96, 0xFF]).instr? = some (.stx (.zpy 0xFF)) ∧
  (decode [0x91, 0x40]).instr? = some (.sta (.indy 0x40)) ∧
  (decode [0x08]).instr? = some .php ∧
  (decode [0x6C, 0xFF, 0x10]).instr? = some (.jmpInd 0x10FF) ∧
  (decode [0xD0, 0xFC]).instr? = some (.bne 0xFC) ∧
  (decode [0x40]).instr? = some .rti ∧
  (decode [0x80]).instr? = some (.illegal 0x80)

/-- Every opcode byte decodes: the bytes of rule R86, 105 and no two alike, to themselves as illegal, with no operand byte;
every other one to an instruction that is not illegal (rules R86, R87, which the spec marks as derived). -/
def Obligations.EveryOpcodeByteDecodes : Prop :=
  illegalBytes.length = 105 ∧ illegalBytes.Nodup ∧
  ∀ op b₁ b₂ : Byte, ∃ i rest, decode [op, b₁, b₂] = .ok i rest ∧
    (op ∈ illegalBytes → i = .illegal op ∧ rest = [b₁, b₂]) ∧
    (op ∉ illegalBytes → ∀ q, i ≠ .illegal q)

/-! ## The step (spec/40_dispatch_addressing.md) -/

/-- A step runs the decoded instruction: when the bytes at the PC decode to `i`, the step is `exec i` on the state with the
PC moved past `i`'s bytes, modulo 2^16, and nothing else changed (rules R110, R111). That `exec` is given the fetched state is the model's
choice (notes/assumptions/5.md). -/
def Obligations.StepRunsTheDecodedInstruction : Prop :=
  ∀ (s : State) (i : Instr) (rest : List Byte), decode s.codeBytes = .ok i rest →
    i.wf = true ∧ step s = exec i { s with pc := s.pc + BitVec.ofNat 16 i.length }

/-- "After an instruction that does not write `PC` itself, `PC` has advanced by exactly the instruction's length" (rule
R111). -/
def Obligations.PcAdvancesByTheLength : Prop :=
  ∀ (s t : State) (i : Instr) (rest : List Byte), decode s.codeBytes = .ok i rest → i.writesPc = false →
    step s = .next t → t.pc = s.pc + BitVec.ofNat 16 i.length

/-- Under the default parameters the core raises no synchronous exception: every state steps to a next state, whatever its
memory, its registers and its budget (spec/60_exceptions.md rule R380). -/
def Obligations.DefaultPoliciesAlwaysStep : Prop :=
  ∀ s : State, s.defaultPolicies → ∃ t, step s = .next t

/-- The only stops are the two faults of spec/60_exceptions.md rule R380, each under its policy and with the opcode byte and
its address recorded; no step is refused. -/
def Obligations.OnlyTheTwoFaultsStop : Prop :=
  ∀ s : State, (∀ r, step s ≠ .refused r) ∧ ∀ f, step s = .fault f →
    (f = .illegalOpcode (s.read s.pc) s.pc ∧ f.code = 1 ∧ s.cfg.illegalPolicy = .fault ∧
      s.read s.pc ∈ illegalBytes) ∨
    (f = .decimalUnsupported (s.read s.pc) s.pc ∧ f.code = 2 ∧ s.cfg.decimalPolicy = .fault ∧ s.p.d = true ∧
      ∃ o rest, decode s.codeBytes = .ok (.adc o) rest ∨ decode s.codeBytes = .ok (.sbc o) rest)

/-! ## Reset (spec/70_reset_and_hazards.md) -/

/-- The reset state of rule R411, of default construction, of construction with a mode and of `reset()` from every state:
PC, SP, A, X, Y and the seven flags at their values; the operating mode modern by default, as constructed, and kept by
`reset()`; memory not touched by it, and no budget consumed (rule R412). -/
def Obligations.ResetLeavesTheStatedValues : Prop :=
  (∀ (s : State) (mode : OperatingMode), ∀ r ∈ [State.reset, State.construct mode, s.hostReset],
    r.pc = 0xFFFC ∧ r.sp = 0xFF ∧ r.a = 0x00 ∧ r.x = 0x00 ∧ r.y = 0x00 ∧
    r.p = ⟨false, false, false, false, false, false, false⟩ ∧ r.p.pack = 0x00) ∧
  State.reset.cfg.mode = .modern ∧
  (∀ mode, (State.construct mode).cfg.mode = mode) ∧
  ∀ s : State, s.hostReset.cfg.mode = s.cfg.mode ∧ s.hostReset.mem = s.mem ∧ s.hostReset.budget = s.budget

/-- The invariant, the model's own (notes/assumptions/4.md), holds at reset. -/
def Obligations.ResetSatisfiesTheInvariant : Prop := State.reset.Inv

/-! ## The whole machine -/

/-- Every step keeps the memory in its canonical form, from every state that has it: addresses rising, inside the 16-bit
address space, no listed byte equal to the unlisted one. That form is the model's own choice (notes/assumptions/4.md). -/
def Obligations.StepKeepsTheInvariant : Prop :=
  ∀ s t : State, s.Inv → step s = .next t → t.Inv

/-- No instruction writes the operating mode or another parameter of the instance (spec/10_state.md rule R33; the parameters
are carried in the state by the model's choice, notes/assumptions/1.md). -/
def Obligations.StepKeepsTheConfiguration : Prop :=
  ∀ s t : State, step s = .next t → t.cfg = s.cfg

/-- The operating mode affects the absolute-indirect jump alone: two steps from states that differ in the mode only answer
the same but for the mode, unless the instruction is a JMP indirect whose pointer's low byte is 0xFF
(spec/40_dispatch_addressing.md rule R121: "this is the only place operating mode affects behavior"). -/
def Obligations.OperatingModeAffectsOnlyIndirectJump : Prop :=
  ∀ (s : State) (mode : OperatingMode),
    (∀ ptr rest, decode s.codeBytes = .ok (.jmpInd ptr) rest → loByte ptr ≠ 0xFF) →
    step { s with cfg := { s.cfg with mode := mode } } =
      mapNext (fun t => { t with cfg := { t.cfg with mode := mode } }) (step s)

/-- The budget is not tested: a step from a state with a budget `k` higher answers the same with a budget `k` higher, down
to any negative value (spec/40_dispatch_addressing.md rule R110, spec/70_reset_and_hazards.md rule R419). The
budget is carried in the state by the model's choice (notes/assumptions/2.md). -/
def Obligations.BudgetIsNotTested : Prop :=
  ∀ (s : State) (k : Int),
    step { s with budget := s.budget + k } = mapNext (fun t => { t with budget := t.budget + k }) (step s)

/-- "No instruction writes a flag it is not listed as writing in rule R26" (spec/10_state.md rule R29), for every
instruction and each of the seven flags. -/
def Obligations.FlagsChangeOnlyByTheirWriters : Prop :=
  ∀ (i : Instr) (s t : State) (f : FlagName), exec i s = .next t → i.writesFlag f = false → t.p.flag f = s.p.flag f

/-- A, X, Y, SP change only by the instructions that rules R21 to R24 of spec/10_state.md list as writing them, and the PC
only by jumps, subroutines, branches, BRK and RTI. -/
def Obligations.RegistersChangeOnlyByTheirWriters : Prop :=
  ∀ (i : Instr) (s t : State), exec i s = .next t →
    (∀ r, i.writesReg r = false → t.reg r = s.reg r) ∧
    (i.writesSp = false → t.sp = s.sp) ∧
    (i.writesPc = false → t.pc = s.pc)

/-- Every byte of memory reads as before, but those at the addresses the instruction stores to: the effective address of a
store or a read-modify-write, the stack bytes of PHA, PHP, JSR and BRK, and none for any other instruction. -/
def Obligations.MemoryChangesOnlyAtStoreAddresses : Prop :=
  ∀ (i : Instr) (s t : State) (addr : Addr), exec i s = .next t → addr ∉ i.storeAddrs s → t.read addr = s.read addr

/-- Every write of A, X or Y sets Z and N from the value written, and so does every read-modify-write of memory from the byte
it leaves there (spec/10_state.md rule R30), for every instruction that rules R21 to R23 list. -/
def Obligations.RegisterWritesSetZeroAndNegative : Prop :=
  (∀ (i : Instr) (s t : State) (r : Reg), exec i s = .next t → i.writesReg r = true →
    t.p.z = (t.reg r == 0) ∧ t.p.n = (t.reg r).getLsbD 7) ∧
  ∀ (m : MemMode) (s t : State),
    ∀ i ∈ [Instr.asl (.mem m), .lsr (.mem m), .rol (.mem m), .ror (.mem m), .inc m, .dec m], exec i s = .next t →
      t.p.z = (t.read (s.ea m) == 0) ∧ t.p.n = (t.read (s.ea m)).getLsbD 7

/-! ## The status byte (spec/10_state.md) -/

/-- `PackP()`, as a number: each flag at its bit and 0 at bit 5, B as stored (rule R31). -/
def Obligations.StatusBytePacking : Prop :=
  ∀ p : Flags, p.pack.getLsbD 5 = false ∧
    p.pack.toNat = 128 * bitNat p.n + 64 * bitNat p.v + 16 * bitNat p.b + 8 * bitNat p.d + 4 * bitNat p.i +
      2 * bitNat p.z + bitNat p.c

/-- `UnpackP(b)` takes each flag from its bit of `b` and discards bit 5; so, as the spec infers, `UnpackP(PackP())` changes
nothing, and `PackP()` after `UnpackP(b)` is `b & 0xDF` (rule R32, whose last sentence the spec marks as derived). -/
def Obligations.StatusByteUnpacking : Prop :=
  (∀ p : Flags, Flags.unpack p.pack = p) ∧
  ∀ b : Byte,
    Flags.unpack b = { c := b.getLsbD 0, z := b.getLsbD 1, i := b.getLsbD 2, d := b.getLsbD 3, b := b.getLsbD 4,
                       v := b.getLsbD 6, n := b.getLsbD 7 } ∧
    (Flags.unpack b).pack = b &&& 0xDF

/-! ## Addressing modes (spec/40_dispatch_addressing.md) -/

/-- The effective address of each mode, as a number: zero page, its indexed forms with an 8-bit wrap, absolute, its indexed
forms modulo 2^16, and the two indirect forms through a zero-page pointer (rules R115 to R120); the operand is the
immediate byte or the byte there (rules R114, R126). -/
def Obligations.EffectiveAddressOfEachMode : Prop :=
  ∀ (s : State) (n : Byte) (w : Addr),
    (s.ea (.zp n)).toNat = n.toNat ∧
    (s.ea (.zpx n)).toNat = (n.toNat + s.x.toNat) % 256 ∧
    (s.ea (.zpy n)).toNat = (n.toNat + s.y.toNat) % 256 ∧
    s.ea (.abs w) = w ∧
    (s.ea (.absx w)).toNat = (w.toNat + s.x.toNat) % 65536 ∧
    (s.ea (.absy w)).toNat = (w.toNat + s.y.toNat) % 65536 ∧
    s.ea (.indx n) = s.readZpPtr (n + s.x) ∧
    (s.ea (.indy n)).toNat = ((s.readZpPtr n).toNat + s.y.toNat) % 65536 ∧
    s.operand (.imm n) = n ∧
    ∀ m : MemMode, s.operand (.mem m) = s.read (s.ea m)

/-- `ReadZpPtr(p)`: the low byte at `p`; the high byte, with `ZP_PTR_WRAP`, at `(p + 1) mod 2^8`, and without it at
`p + 1`, which for 0x00FF is 0x0100 (rule R123). -/
def Obligations.ZeroPagePointerRead : Prop :=
  ∀ (s : State) (p : Byte),
    loByte (s.readZpPtr p) = s.read (zext16 p) ∧
    (s.cfg.zpPtrWrap = true → hiByte (s.readZpPtr p) = s.read (zext16 (p + 1))) ∧
    (s.cfg.zpPtrWrap = false → hiByte (s.readZpPtr p) = s.read (zext16 p + 1))

/-- The page-crossing test, the extra cycle and the whole cost `s.readCost o` of a read-class, compare or bit-test
instruction, mode by mode: its base cost (rule R85) plus, in ABSX, ABSY and INDY, one more exactly when the indexed address
leaves the page of the address before the index; no other mode tests for it (rules R110, R124, R125). -/
def Obligations.PageCrossingExtra : Prop :=
  ∀ (s : State) (n : Byte) (w : Addr),
    s.pageExtra (.mem (.absx w)) = (if (s.ea (.absx w)).toNat / 256 = w.toNat / 256 then 0 else 1) ∧
    s.pageExtra (.mem (.absy w)) = (if (s.ea (.absy w)).toNat / 256 = w.toNat / 256 then 0 else 1) ∧
    s.pageExtra (.mem (.indy n)) =
      (if (s.ea (.indy n)).toNat / 256 = (s.readZpPtr n).toNat / 256 then 0 else 1) ∧
    s.pageExtra (.imm n) = 0 ∧
    (∀ m ∈ [MemMode.zp n, .zpx n, .zpy n, .abs w, .indx n], s.pageExtra (.mem m) = 0) ∧
    s.readCost (.mem (.absx w)) = (if (s.ea (.absx w)).toNat / 256 = w.toNat / 256 then 4 else 5) ∧
    s.readCost (.mem (.absy w)) = (if (s.ea (.absy w)).toNat / 256 = w.toNat / 256 then 4 else 5) ∧
    s.readCost (.mem (.indy n)) =
      (if (s.ea (.indy n)).toNat / 256 = (s.readZpPtr n).toNat / 256 then 5 else 6) ∧
    [Operand.imm n, .mem (.zp n), .mem (.zpx n), .mem (.zpy n), .mem (.abs w), .mem (.indx n)].map s.readCost =
      [2, 3, 4, 4, 4, 6]

/-- The base cost of each mode of rule R85's lists: read class, stores, read-modify-writes. -/
def Obligations.BaseCostOfEachMode : Prop :=
  ∀ (n : Byte) (w : Addr),
    [Operand.imm n, .mem (.zp n), .mem (.zpx n), .mem (.zpy n), .mem (.abs w), .mem (.absx w), .mem (.absy w),
      .mem (.indx n), .mem (.indy n)].map readCycles = [2, 3, 4, 4, 4, 4, 4, 6, 5] ∧
    [MemMode.zp n, .zpx n, .zpy n, .abs w, .absx w, .absy w, .indx n, .indy n].map storeCycles =
      [3, 4, 4, 4, 5, 5, 6, 6] ∧
    [MemMode.zp n, .zpx n, .abs w, .absx w].map rmwCycles = [5, 6, 6, 7]

/-! ## ALU (spec/41_alu.md) -/

/-- ADC (rule R150): its eight opcodes; with D clear or `DECIMAL_POLICY = binary`, the sum "in a widened integer", its low
byte in A, C and V by their rules, Z and N from A, everything else unchanged; with D set and `DECIMAL_POLICY = fault`,
`DecimalUnsupported`. What the fault records is DecimalFaultRecordsTheOpcode. -/
def Obligations.AdcAddsWithCarry : Prop :=
  (∀ n w, encodedBy .adc [0x69, 0x65, 0x75, 0x6D, 0x7D, 0x79, 0x61, 0x71] (readForms n w)) ∧
  ∀ (o : Operand) (s : State),
    ((s.cfg.decimalPolicy = .binary ∨ s.p.d = false) →
      exec (.adc o) s =
        (let m := s.operand o
         let sum := s.a.toNat + m.toNat + (if s.p.c then 1 else 0)
         let r := BitVec.ofNat 8 sum
         .next { s with
           a := r
           p := { s.p with
             c := decide (0xFF < sum)
             v := (s.a.getLsbD 7 == m.getLsbD 7) && (r.getLsbD 7 != s.a.getLsbD 7)
             z := r == 0
             n := r.getLsbD 7 }
           budget := s.budget - s.readCost o })) ∧
    (s.cfg.decimalPolicy = .fault → s.p.d = true → ∃ op addr, exec (.adc o) s = .fault (.decimalUnsupported op addr))

/-- SBC (rule R151): its eight opcodes; it is ADC of the operand's complement, in A, the flags and all the rest but for the
cost of the operand; C after it means no borrow, A being `A - M - (1 - C)` modulo 2^8; with D set and `DECIMAL_POLICY = fault`,
`DecimalUnsupported` as ADC. What the fault records is DecimalFaultRecordsTheOpcode. -/
def Obligations.SbcIsAdcOfTheComplement : Prop :=
  (∀ n w, encodedBy .sbc [0xE9, 0xE5, 0xF5, 0xED, 0xFD, 0xF9, 0xE1, 0xF1] (readForms n w)) ∧
  ∀ (o : Operand) (s : State),
    ((s.cfg.decimalPolicy = .binary ∨ s.p.d = false) →
      ∃ t u, exec (.sbc o) s = .next t ∧ exec (.adc (.imm (~~~(s.operand o)))) s = .next u ∧
        t = { u with budget := s.budget - s.readCost o } ∧
        (t.p.c = true ↔ (s.operand o).toNat + (if s.p.c then 0 else 1) ≤ s.a.toNat) ∧
        (t.a.toNat : Int) = ((s.a.toNat : Int) - (s.operand o).toNat - (if s.p.c then 0 else 1)) % 256) ∧
    (s.cfg.decimalPolicy = .fault → s.p.d = true → ∃ op addr, exec (.sbc o) s = .fault (.decimalUnsupported op addr))

/-- "V reports signed overflow, meaning the true signed result lies outside -128..+127", of ADC and of SBC
(rule R159, which the spec marks as derived). -/
def Obligations.OverflowIsSignedOverflow : Prop :=
  ∀ (o : Operand) (s : State), (s.cfg.decimalPolicy = .binary ∨ s.p.d = false) →
    ∃ t u, exec (.adc o) s = .next t ∧ exec (.sbc o) s = .next u ∧
      (t.p.v = true ↔
        (s.a.toInt + (s.operand o).toInt + (if s.p.c then 1 else 0) < -128 ∨
          127 < s.a.toInt + (s.operand o).toInt + (if s.p.c then 1 else 0))) ∧
      (u.p.v = true ↔
        (s.a.toInt - (s.operand o).toInt - (if s.p.c then 0 else 1) < -128 ∨
          127 < s.a.toInt - (s.operand o).toInt - (if s.p.c then 0 else 1)))

/-- AND, ORA and EOR (rules R152, R153, R154): their opcodes; they combine A and the operand bitwise, and set Z and N from the
result; C, V and everything else are kept. -/
def Obligations.LogicalOperations : Prop :=
  (∀ n w,
    encodedBy .and [0x29, 0x25, 0x35, 0x2D, 0x3D, 0x39, 0x21, 0x31] (readForms n w) ∧
    encodedBy .ora [0x09, 0x05, 0x15, 0x0D, 0x1D, 0x19, 0x01, 0x11] (readForms n w) ∧
    encodedBy .eor [0x49, 0x45, 0x55, 0x4D, 0x5D, 0x59, 0x41, 0x51] (readForms n w)) ∧
  ∀ (o : Operand) (s : State),
    ∀ q ∈ [(Instr.and o, s.a &&& s.operand o), (Instr.ora o, s.a ||| s.operand o), (Instr.eor o, s.a ^^^ s.operand o)],
      exec q.1 s = .next { s with
        a := q.2, p := { s.p with z := q.2 == 0, n := q.2.getLsbD 7 }, budget := s.budget - s.readCost o }

/-- CMP, CPX and CPY (rules R155, R156, R157): their opcodes; C from the unsigned comparison, Z from equality, N bit 7 of the
truncated difference; no register and no other flag is written. -/
def Obligations.ComparesWriteCarryZeroNegative : Prop :=
  (∀ n w,
    encodedBy .cmp [0xC9, 0xC5, 0xD5, 0xCD, 0xDD, 0xD9, 0xC1, 0xD1] (readForms n w) ∧
    encodedBy .cpx [0xE0, 0xE4, 0xEC] (indexCompareForms n w) ∧
    encodedBy .cpy [0xC0, 0xC4, 0xCC] (indexCompareForms n w)) ∧
  ∀ (o : Operand) (s : State),
    ∀ q ∈ [(Instr.cmp o, s.a), (Instr.cpx o, s.x), (Instr.cpy o, s.y)],
      exec q.1 s = .next { s with
        p := { s.p with
          c := decide ((s.operand o).toNat ≤ q.2.toNat)
          z := decide (q.2 = s.operand o)
          n := (q.2 - s.operand o).getLsbD 7 }
        budget := s.budget - s.readCost o }

/-- CMP sets C, Z and N as SBC with C set would, and leaves A and V (rule R160 c, which the spec marks as derived). -/
def Obligations.CompareAgreesWithSbc : Prop :=
  ∀ (o : Operand) (s : State), (s.cfg.decimalPolicy = .binary ∨ s.p.d = false) →
    ∃ t u, exec (.cmp o) s = .next t ∧ exec (.sbc o) { s with p := { s.p with c := true } } = .next u ∧
      t.p.c = u.p.c ∧ t.p.z = u.p.z ∧ t.p.n = u.p.n ∧ t.a = s.a ∧ t.p.v = s.p.v

/-- BIT (rule R158): its opcodes; N and V are bits 7 and 6 of the memory byte, Z is whether `A AND M` is zero; C, A and memory
unchanged. -/
def Obligations.BitTestsTheMemoryByte : Prop :=
  (∀ n w, encodedBy .bit [0x24, 0x2C] [.zp n, .abs w]) ∧
  ∀ (m : MemMode) (s : State),
    exec (.bit m) s = .next { s with
      p := { s.p with
        n := (s.read (s.ea m)).getLsbD 7
        v := (s.read (s.ea m)).getLsbD 6
        z := decide (s.a &&& s.read (s.ea m) = 0) }
      budget := s.budget - s.readCost (.mem m) }

/-! ## Shifts, rotates, increments, decrements (spec/42_shift_incdec.md) -/

/-- ASL, LSR, ROL and ROR (rules R200 to R203): their opcodes; of the accumulator, and of a byte of memory, which is the one
byte written, at the effective address; the result as a number, the outgoing bit in C, Z and N from the result, everything
else unchanged. -/
def Obligations.ShiftsAndRotates : Prop :=
  (∀ n w,
    encodedBy .asl [0x0A, 0x06, 0x16, 0x0E, 0x1E] (shiftForms n w) ∧
    encodedBy .lsr [0x4A, 0x46, 0x56, 0x4E, 0x5E] (shiftForms n w) ∧
    encodedBy .rol [0x2A, 0x26, 0x36, 0x2E, 0x3E] (shiftForms n w) ∧
    encodedBy .ror [0x6A, 0x66, 0x76, 0x6E, 0x7E] (shiftForms n w)) ∧
  (∀ s : State,
    ∀ q ∈ [(Instr.asl .acc, 2 * s.a.toNat % 256, s.a.getLsbD 7),
           (Instr.lsr .acc, s.a.toNat / 2, s.a.getLsbD 0),
           (Instr.rol .acc, (2 * s.a.toNat + bitNat s.p.c) % 256, s.a.getLsbD 7),
           (Instr.ror .acc, s.a.toNat / 2 + 128 * bitNat s.p.c, s.a.getLsbD 0)],
      exec q.1 s = .next { s with
        a := BitVec.ofNat 8 q.2.1
        p := { s.p with c := q.2.2, z := decide (q.2.1 = 0), n := decide (128 ≤ q.2.1) }
        budget := s.budget - 2 }) ∧
  ∀ (m : MemMode) (s : State),
    let v := s.read (s.ea m)
    ∀ q ∈ [(Instr.asl (.mem m), 2 * v.toNat % 256, v.getLsbD 7),
           (Instr.lsr (.mem m), v.toNat / 2, v.getLsbD 0),
           (Instr.rol (.mem m), (2 * v.toNat + bitNat s.p.c) % 256, v.getLsbD 7),
           (Instr.ror (.mem m), v.toNat / 2 + 128 * bitNat s.p.c, v.getLsbD 0)],
      ∃ t, exec q.1 s = .next t ∧
        (∀ addr, t.read addr = if addr = s.ea m then BitVec.ofNat 8 q.2.1 else s.read addr) ∧
        t = { s with
          mem := t.mem
          p := { s.p with c := q.2.2, z := decide (q.2.1 = 0), n := decide (128 ≤ q.2.1) }
          budget := s.budget - rmwCycles m }

/-- INC and DEC (rules R204, R205): their opcodes; one byte written, at the effective address, one more or one less modulo
2^8; Z and N from it; C, V and everything else unchanged. -/
def Obligations.IncrementAndDecrementMemory : Prop :=
  (∀ n w,
    encodedBy .inc [0xE6, 0xF6, 0xEE, 0xFE] [.zp n, .zpx n, .abs w, .absx w] ∧
    encodedBy .dec [0xC6, 0xD6, 0xCE, 0xDE] [.zp n, .zpx n, .abs w, .absx w]) ∧
  ∀ (m : MemMode) (s : State),
    ∀ q ∈ [(Instr.inc m, s.read (s.ea m) + 1), (Instr.dec m, s.read (s.ea m) - 1)],
      ∃ t, exec q.1 s = .next t ∧
        (∀ addr, t.read addr = if addr = s.ea m then q.2 else s.read addr) ∧
        t = { s with
          mem := t.mem, p := { s.p with z := decide (q.2 = 0), n := q.2.getLsbD 7 }
          budget := s.budget - rmwCycles m }

/-- INX, INY, DEX and DEY: the index register one more or one less modulo 2^8, Z and N from it, no carry effect (rules R206 to
R209). -/
def Obligations.IncrementAndDecrementIndex : Prop :=
  ∀ s : State,
    [Instr.inx, .iny, .dex, .dey].map encode = [some [0xE8], some [0xC8], some [0xCA], some [0x88]] ∧
    exec .inx s = .next { s with
      x := s.x + 1, p := { s.p with z := s.x + 1 == 0, n := (s.x + 1).getLsbD 7 }, budget := s.budget - 2 } ∧
    exec .iny s = .next { s with
      y := s.y + 1, p := { s.p with z := s.y + 1 == 0, n := (s.y + 1).getLsbD 7 }, budget := s.budget - 2 } ∧
    exec .dex s = .next { s with
      x := s.x - 1, p := { s.p with z := s.x - 1 == 0, n := (s.x - 1).getLsbD 7 }, budget := s.budget - 2 } ∧
    exec .dey s = .next { s with
      y := s.y - 1, p := { s.p with z := s.y - 1 == 0, n := (s.y - 1).getLsbD 7 }, budget := s.budget - 2 }

/-! ## Loads, stores, transfers (spec/43_load_store_transfer.md) -/

/-- LDA, LDX and LDY (rules R250, R251, R252): their opcodes; the register, Z and N from the operand, and nothing else but the
budget. -/
def Obligations.LoadsWriteTheRegister : Prop :=
  (∀ n w,
    encodedBy .lda [0xA9, 0xA5, 0xB5, 0xAD, 0xBD, 0xB9, 0xA1, 0xB1] (readForms n w) ∧
    encodedBy .ldx [0xA2, 0xA6, 0xB6, 0xAE, 0xBE]
      [.imm n, .mem (.zp n), .mem (.zpy n), .mem (.abs w), .mem (.absy w)] ∧
    encodedBy .ldy [0xA0, 0xA4, 0xB4, 0xAC, 0xBC]
      [.imm n, .mem (.zp n), .mem (.zpx n), .mem (.abs w), .mem (.absx w)]) ∧
  ∀ (o : Operand) (s : State),
    let m := s.operand o
    let p := { s.p with z := m == 0, n := m.getLsbD 7 }
    exec (.lda o) s = .next { s with a := m, p := p, budget := s.budget - s.readCost o } ∧
    exec (.ldx o) s = .next { s with x := m, p := p, budget := s.budget - s.readCost o } ∧
    exec (.ldy o) s = .next { s with y := m, p := p, budget := s.budget - s.readCost o }

/-- STA, STX and STY (rules R256, R257, R258): their opcodes; the register's byte at the effective address, every other byte
as before; no flag and no register changes. -/
def Obligations.StoresWriteOneByte : Prop :=
  (∀ n w,
    encodedBy .sta [0x85, 0x95, 0x8D, 0x9D, 0x99, 0x81, 0x91]
      [.zp n, .zpx n, .abs w, .absx w, .absy w, .indx n, .indy n] ∧
    encodedBy .stx [0x86, 0x96, 0x8E] [.zp n, .zpy n, .abs w] ∧
    encodedBy .sty [0x84, 0x94, 0x8C] [.zp n, .zpx n, .abs w]) ∧
  ∀ (m : MemMode) (s : State),
    ∀ q ∈ [(Instr.sta m, s.a), (Instr.stx m, s.x), (Instr.sty m, s.y)],
      ∃ t, exec q.1 s = .next t ∧
        (∀ addr, t.read addr = if addr = s.ea m then q.2 else s.read addr) ∧
        t = { s with mem := t.mem, budget := s.budget - storeCycles m }

/-- TAX, TAY, TXA, TYA and TSX copy a register and set Z and N from it; TXS copies X to SP and sets no flag (rules R260 to
R265). -/
def Obligations.RegisterTransfers : Prop :=
  ∀ s : State,
    [Instr.tax, .tay, .txa, .tya, .tsx, .txs].map encode =
      [some [0xAA], some [0xA8], some [0x8A], some [0x98], some [0xBA], some [0x9A]] ∧
    exec .tax s = .next { s with
      x := s.a, p := { s.p with z := s.a == 0, n := s.a.getLsbD 7 }, budget := s.budget - 2 } ∧
    exec .tay s = .next { s with
      y := s.a, p := { s.p with z := s.a == 0, n := s.a.getLsbD 7 }, budget := s.budget - 2 } ∧
    exec .txa s = .next { s with
      a := s.x, p := { s.p with z := s.x == 0, n := s.x.getLsbD 7 }, budget := s.budget - 2 } ∧
    exec .tya s = .next { s with
      a := s.y, p := { s.p with z := s.y == 0, n := s.y.getLsbD 7 }, budget := s.budget - 2 } ∧
    exec .tsx s = .next { s with
      x := s.sp, p := { s.p with z := s.sp == 0, n := s.sp.getLsbD 7 }, budget := s.budget - 2 } ∧
    exec .txs s = .next { s with sp := s.x, budget := s.budget - 2 }

/-! ## Stack (spec/44_stack.md, spec/20_memory.md section 3) -/

/-- PHA and PHP write A or the packed status at `0x0100 + SP`, then increment SP modulo 2^8; every other byte, every flag and
every other register is unchanged (rules R300, R301). -/
def Obligations.PushesWriteOneByte : Prop :=
  ∀ s : State, encode .pha = some [0x48] ∧ encode .php = some [0x08] ∧
    ∀ q ∈ [(Instr.pha, s.a), (Instr.php, s.p.pack)],
      ∃ t, exec q.1 s = .next t ∧
        (∀ addr, t.read addr = if addr = 0x0100 + zext16 s.sp then q.2 else s.read addr) ∧
        t = { s with mem := t.mem, sp := s.sp + 1, budget := s.budget - 3 }

/-- PLA and PLP decrement SP modulo 2^8 and read the byte at `0x0100 + SP`: PLA into A with Z and N, PLP into all seven flags,
bit 5 discarded (rules R302, R303). -/
def Obligations.PullsReadOneByte : Prop :=
  ∀ s : State,
    let v := s.read (0x0100 + zext16 (s.sp - 1))
    encode .pla = some [0x68] ∧ encode .plp = some [0x28] ∧
    exec .pla s = .next { s with
      a := v, sp := s.sp - 1, p := { s.p with z := v == 0, n := v.getLsbD 7 }, budget := s.budget - 4 } ∧
    exec .plp s = .next { s with
      sp := s.sp - 1
      p := { c := v.getLsbD 0, z := v.getLsbD 1, i := v.getLsbD 2, d := v.getLsbD 3, b := v.getLsbD 4,
             v := v.getLsbD 6, n := v.getLsbD 7 }
      budget := s.budget - 4 }

/-- PHA then PLA restores A and SP and sets Z and N from A; PHP then PLP restores every flag and SP; whatever runs between,
as long as SP and the pushed byte are as the push left them (rule R304, which the spec marks as derived). -/
def Obligations.PushPullRoundTrips : Prop :=
  ∀ s t t' : State, t'.sp = t.sp → t'.read (0x0100 + zext16 s.sp) = t.read (0x0100 + zext16 s.sp) →
    (exec .pha s = .next t → ∃ u, exec .pla t' = .next u ∧ u.a = s.a ∧ u.sp = s.sp ∧
      u.p.z = (s.a == 0) ∧ u.p.n = s.a.getLsbD 7) ∧
    (exec .php s = .next t → ∃ u, exec .plp t' = .next u ∧ u.p = s.p ∧ u.sp = s.sp)

/-- "Pushing 256 bytes in sequence returns the stack pointer to its starting value" and writes every byte of the stack page,
and no byte outside it (spec/20_memory.md rule R63; rule R304, which the spec marks as derived). -/
def Obligations.PushingAWholePageWraps : Prop :=
  ∀ s : State, ∃ t, execTimes .pha 256 s = .next t ∧ t.sp = s.sp ∧
    ∀ addr : Addr, t.read addr = if addr.toNat / 256 = 1 then s.a else s.read addr

/-! ## Control transfer (spec/45_control_flow.md) -/

/-- JMP absolute sets the PC to its operand; JMP indirect to the 16-bit value whose low byte is at the pointer and whose high
byte is at the pointer plus one, or in legacy mode, for a pointer whose low byte is 0xFF, at the start of the same page
(rules R320, R321; spec/40_dispatch_addressing.md rule R121). -/
def Obligations.JumpsSetThePc : Prop :=
  ∀ (s : State) (w : Addr),
    encode (.jmpAbs w) = some [0x4C, loByte w, hiByte w] ∧ encode (.jmpInd w) = some [0x6C, loByte w, hiByte w] ∧
    exec (.jmpAbs w) s = .next { s with pc := w, budget := s.budget - 3 } ∧
    ∃ t, exec (.jmpInd w) s = .next t ∧ t = { s with pc := t.pc, budget := s.budget - 5 } ∧
      loByte t.pc = s.read w ∧
      (s.cfg.mode = .legacy → loByte w = 0xFF → hiByte t.pc = s.read (w &&& 0xFF00)) ∧
      (s.cfg.mode = .modern ∨ loByte w ≠ 0xFF → hiByte t.pc = s.read (w + 1))

/-- JSR pushes the address of its own last byte, low byte at SP and high byte above it (SP modulo 2^8), moves SP by two and
sets the PC to its target; every other byte of memory and every flag is unchanged (rule R322). -/
def Obligations.JsrPushesTheReturnAddress : Prop :=
  ∀ (s : State) (w : Addr), encode (.jsr w) = some [0x20, loByte w, hiByte w] ∧
    ∃ t, exec (.jsr w) s = .next t ∧
      (∀ addr, t.read addr =
        if addr = 0x0100 + zext16 s.sp then loByte (s.pc - 1)
        else if addr = 0x0100 + zext16 (s.sp + 1) then hiByte (s.pc - 1)
        else s.read addr) ∧
      t = { s with mem := t.mem, sp := s.sp + 2, pc := w, budget := s.budget - 6 }

/-- RTS pops the high byte, then the low byte, and sets the PC to that address plus one modulo 2^16 (rule R323). -/
def Obligations.RtsReturnsPastThePoppedAddress : Prop :=
  ∀ s : State, encode .rts = some [0x60] ∧
    exec .rts s = .next { s with
      pc := joinBytes (s.read (0x0100 + zext16 (s.sp - 1))) (s.read (0x0100 + zext16 (s.sp - 2))) + 1
      sp := s.sp - 2
      budget := s.budget - 6 }

/-- A JSR followed by the matching RTS restores SP and continues at the byte after the JSR, whatever the subroutine does, as
long as it leaves SP and the two stacked bytes as the JSR left them (rule R333, which the spec marks as derived). -/
def Obligations.SubroutineRoundTrip : Prop :=
  ∀ (s t t' : State) (w : Addr), exec (.jsr w) s = .next t → t'.sp = t.sp →
    t'.read (0x0100 + zext16 s.sp) = t.read (0x0100 + zext16 s.sp) →
    t'.read (0x0100 + zext16 (s.sp + 1)) = t.read (0x0100 + zext16 (s.sp + 1)) →
    ∃ u, exec .rts t' = .next u ∧ u.sp = s.sp ∧ u.pc = s.pc

/-- The eight branches: taken when the flag has the required value, to the PC plus the signed offset modulo 2^16; 2 cycles
not taken, 3 taken in the page of the next instruction, 4 taken to another; no flag, register or byte changes (rules R324 to
R332). -/
def Obligations.BranchesTestOneFlag : Prop :=
  ∀ (s : State) (off : Byte),
    [Instr.bpl off, .bmi off, .bvc off, .bvs off, .bcc off, .bcs off, .bne off, .beq off].map encode =
      [some [0x10, off], some [0x30, off], some [0x50, off], some [0x70, off], some [0x90, off], some [0xB0, off],
       some [0xD0, off], some [0xF0, off]] ∧
    ∀ q ∈ [(Instr.bpl off, s.p.n, false), (Instr.bmi off, s.p.n, true), (Instr.bvc off, s.p.v, false),
           (Instr.bvs off, s.p.v, true), (Instr.bcc off, s.p.c, false), (Instr.bcs off, s.p.c, true),
           (Instr.bne off, s.p.z, false), (Instr.beq off, s.p.z, true)],
      ∃ t, exec q.1 s = .next t ∧ t = { s with pc := t.pc, budget := t.budget } ∧
        (q.2.1 ≠ q.2.2 → t.pc = s.pc ∧ t.budget = s.budget - 2) ∧
        (q.2.1 = q.2.2 →
          (t.pc.toNat : Int) = ((s.pc.toNat : Int) + off.toInt) % 65536 ∧
          t.budget = s.budget - (if t.pc.toNat / 256 = s.pc.toNat / 256 then 3 else 4))

/-! ## Flags, NOP, BRK, RTI, illegal bytes (spec/46_flags_system.md, spec/30_encoding.md) -/

/-- CLC, SEC, CLI, SEI, CLD, SED and CLV set or clear the flag they name and nothing else, in 2 cycles (rules R350 to
R356). -/
def Obligations.FlagInstructionsWriteOneFlag : Prop :=
  ∀ s : State,
    [Instr.clc, .sec, .cli, .sei, .cld, .sed, .clv].map encode =
      [some [0x18], some [0x38], some [0x58], some [0x78], some [0xD8], some [0xF8], some [0xB8]] ∧
    ∀ q ∈ [(Instr.clc, { s.p with c := false }), (Instr.sec, { s.p with c := true }),
           (Instr.cli, { s.p with i := false }), (Instr.sei, { s.p with i := true }),
           (Instr.cld, { s.p with d := false }), (Instr.sed, { s.p with d := true }),
           (Instr.clv, { s.p with v := false })],
      exec q.1 s = .next { s with p := q.2, budget := s.budget - 2 }

/-- NOP costs 2 cycles and changes nothing else, under either `ILLEGAL_POLICY` (rule R357). -/
def Obligations.NopChangesNothing : Prop :=
  ∀ s : State, encode .nop = some [0xEA] ∧ exec .nop s = .next { s with budget := s.budget - 2 }

/-- An illegal byte under `ILLEGAL_POLICY = nop` costs 1 cycle and changes nothing else; under `fault` it raises
`IllegalOpcode` with the byte and its address, one before the PC (spec/30_encoding.md rule R88). -/
def Obligations.IllegalBytesFollowTheirPolicy : Prop :=
  ∀ (s : State) (op : Byte), (Instr.illegal op).operandBytes = [] ∧
    (s.cfg.illegalPolicy = .nop → exec (.illegal op) s = .next { s with budget := s.budget - 1 }) ∧
    (s.cfg.illegalPolicy = .fault → exec (.illegal op) s = .fault (.illegalOpcode op (s.pc - 1)))

/-- BRK: PC low, PC high and the packed status as held before it are pushed, SP moves by three, the PC is loaded from the
vector at 0xFFFE and 0xFFFF, B is set; I and everything else unchanged (rule R358; spec/60_exceptions.md rule R384). -/
def Obligations.BrkTakesTheTrap : Prop :=
  ∀ s : State, encode .brk = some [0x00] ∧ ∃ t, exec .brk s = .next t ∧
    (∀ addr, t.read addr =
      if addr = 0x0100 + zext16 s.sp then loByte s.pc
      else if addr = 0x0100 + zext16 (s.sp + 1) then hiByte s.pc
      else if addr = 0x0100 + zext16 (s.sp + 2) then s.p.pack
      else s.read addr) ∧
    t = { s with
      mem := t.mem, sp := s.sp + 3, pc := joinBytes (s.read 0xFFFF) (s.read 0xFFFE), p := { s.p with b := true }
      budget := s.budget - 7 }

/-- RTI: the flags from the popped byte, the PC from the two bytes below it, high byte first and no plus one, then B cleared,
whatever the stacked byte held (rule R359; spec/60_exceptions.md rule R385). -/
def Obligations.RtiReturnsFromTheTrap : Prop :=
  ∀ s : State, let v := s.read (0x0100 + zext16 (s.sp - 1))
    encode .rti = some [0x40] ∧
    exec .rti s = .next { s with
      sp := s.sp - 3
      pc := joinBytes (s.read (0x0100 + zext16 (s.sp - 2))) (s.read (0x0100 + zext16 (s.sp - 3)))
      p := { c := v.getLsbD 0, z := v.getLsbD 1, i := v.getLsbD 2, d := v.getLsbD 3, b := false,
             v := v.getLsbD 6, n := v.getLsbD 7 }
      budget := s.budget - 6 }

/-- BRK followed by RTI restores SP and C, Z, I, D, V, N, leaves B clear and sets the PC to the BRK's address plus one,
whatever the handler does, as long as it leaves SP and the three stacked bytes as the BRK left them (rule R360,
which the spec marks as derived). -/
def Obligations.BreakRoundTrip : Prop :=
  ∀ s t t' : State, exec .brk s = .next t → t'.sp = t.sp →
    (∀ k ∈ [s.sp, s.sp + 1, s.sp + 2], t'.read (0x0100 + zext16 k) = t.read (0x0100 + zext16 k)) →
    ∃ u, exec .rti t' = .next u ∧ u.sp = s.sp ∧ u.pc = s.pc ∧ u.p = { s.p with b := false }

/-- `execute_single(memory, cycle_budget)` returns the budget minus the cost, which does not depend on the budget, may leave
it zero or negative, and is at least 1 and at most 7 (spec/40_dispatch_addressing.md rule R110; the bounds are those of the
costs of spec/30_encoding.md rule R85 with their extras; the budget in the state is the model's choice,
notes/assumptions/2.md). -/
def Obligations.DispatchReturnsTheRemainingBudget : Prop :=
  ∀ s : State, s.defaultPolicies → ∃ cost : Nat, 1 ≤ cost ∧ cost ≤ 7 ∧
    ∀ budget : Int, ∃ t, s.executeSingle budget = .next t ∧ t.budget = budget - cost

/-! ## What a fault records (spec/60_exceptions.md) -/

/-- With D set and `DECIMAL_POLICY = fault`, ADC and SBC, in every mode that has an opcode, raise `DecimalUnsupported`, code
2, with "the opcode byte and its address" (rule R380). That the address is the PC after the fetch minus the length, and the
byte the encoder's, is the model's reading (notes/assumptions/15.md, DEDUCED); that nothing is written is the fault's form,
which carries no state (notes/assumptions/9.md, DESIGN CHOICE). -/
def Obligations.DecimalFaultRecordsTheOpcode : Prop :=
  ∀ (o : Operand) (s : State), ∀ i ∈ [Instr.adc o, .sbc o], ∀ op : Byte,
    i.opcode = some op → s.cfg.decimalPolicy = .fault → s.p.d = true →
      ∃ f, exec i s = .fault f ∧ f = .decimalUnsupported op (s.pc - BitVec.ofNat 16 i.length) ∧ f.code = 2
end

