-- ==== Sys2Proof/Laws/Decode.lean ====
section
/-! SUPPORT. The opcode map of rule R84 and the opcode lists of rule R85 agree, entry by entry; and an instruction has an
encoding exactly when it is well formed. -/

namespace Sys2Proof

/-- What an entry of the decoder's table at the opcode `op` has to be: an illegal byte of rule R86, or an instruction
whose opcode is `op` and whose operand bytes are those the entry asks for. -/
def OpDesc.Encodes (op : Byte) : OpDesc → Prop
  | .illegal => illegalBytes.contains op = true
  | .one i => i.opcode = some op ∧ i.operandBytes = []
  | .byte f => ∀ n, (f n).opcode = some op ∧ (f n).operandBytes = [n]
  | .word f => ∀ w, (f w).opcode = some op ∧ (f w).operandBytes = wordBytes w

/-- The entries of one row of the map, from the opcode `base` on. -/
def rowEncodes (base : Nat) : List OpDesc → Prop
  | [] => True
  | d :: rest => d.Encodes (BitVec.ofNat 8 base) ∧ rowEncodes (base + 1) rest

theorem rowEncodes_getD {base : Nat} {row : List OpDesc} (h : rowEncodes base row) {k : Nat} (hk : k < row.length) :
    (row.getD k .illegal).Encodes (BitVec.ofNat 8 (base + k)) := by
  induction row generalizing base k with
  | nil => simp at hk
  | cons d rest ih =>
    cases k with
    | zero => simpa using h.1
    | succ k => simpa [Nat.add_assoc, Nat.add_comm 1 k] using ih h.2 (k := k) (by simpa using hk)

/-- Every row of the map agrees with the opcode lists. -/
theorem opcodeMap_encodes (k : Nat) (hk : k < 16) : rowEncodes (16 * k) (opcodeMap.getD k []) := by
  interval_cases k <;>
    (refine ⟨?_, ?_, ?_, ?_, ?_, ?_, ?_, ?_, ?_, ?_, ?_, ?_, ?_, ?_, ?_, ?_, trivial⟩) <;>
    first
      | exact rfl
      | exact ⟨rfl, rfl⟩
      | exact fun _ => ⟨rfl, rfl⟩

theorem opcodeMap_row_length (k : Nat) (hk : k < 16) : (opcodeMap.getD k []).length = 16 := by
  interval_cases k <;> rfl

/-- The decoder's table says of every opcode byte what the opcode lists say. -/
theorem descriptor_encodes (op : Byte) : (descriptor op).Encodes op := by
  have hop := op.isLt
  have hrow := opcodeMap_encodes (op.toNat / 16) (by omega)
  have hlen := opcodeMap_row_length (op.toNat / 16) (by omega)
  have h := rowEncodes_getD hrow (k := op.toNat % 16) (by omega)
  have hnat : 16 * (op.toNat / 16) + op.toNat % 16 = op.toNat := by omega
  rw [hnat, BitVec.ofNat_toNat, BitVec.setWidth_eq] at h
  exact h

/-- The operand bytes of a decoded 16-bit operand are the bytes it was read from. -/
theorem wordBytes_joinBytes (hi lo : Byte) : wordBytes (joinBytes hi lo) = [lo, hi] := by
  rw [wordBytes, loByte_joinBytes, hiByte_joinBytes]

end Sys2Proof
end

