-- ==== Sys2Proof/Laws/State.lean ====
section
/-! SUPPORT. One lemma per field per update of the state: what each named operation of Machine/Ops.lean leaves in every
field, so that no proof unfolds a record update. -/

namespace Sys2Proof.Machine

@[simp] theorem State.setZN_a (s : State) (v : Byte) : (s.setZN v).a = s.a := rfl
@[simp] theorem State.setZN_x (s : State) (v : Byte) : (s.setZN v).x = s.x := rfl
@[simp] theorem State.setZN_y (s : State) (v : Byte) : (s.setZN v).y = s.y := rfl
@[simp] theorem State.setZN_sp (s : State) (v : Byte) : (s.setZN v).sp = s.sp := rfl
@[simp] theorem State.setZN_pc (s : State) (v : Byte) : (s.setZN v).pc = s.pc := rfl
@[simp] theorem State.setZN_p (s : State) (v : Byte) : (s.setZN v).p = s.p.setZN v := rfl
@[simp] theorem State.setZN_mem (s : State) (v : Byte) : (s.setZN v).mem = s.mem := rfl
@[simp] theorem State.setZN_cfg (s : State) (v : Byte) : (s.setZN v).cfg = s.cfg := rfl
@[simp] theorem State.setZN_budget (s : State) (v : Byte) : (s.setZN v).budget = s.budget := rfl

@[simp] theorem State.setReg_a_a (s : State) (v : Byte) : (s.setReg .a v).a = v := rfl
@[simp] theorem State.setReg_a_x (s : State) (v : Byte) : (s.setReg .a v).x = s.x := rfl
@[simp] theorem State.setReg_a_y (s : State) (v : Byte) : (s.setReg .a v).y = s.y := rfl
@[simp] theorem State.setReg_a_sp (s : State) (v : Byte) : (s.setReg .a v).sp = s.sp := rfl
@[simp] theorem State.setReg_a_pc (s : State) (v : Byte) : (s.setReg .a v).pc = s.pc := rfl
@[simp] theorem State.setReg_a_p (s : State) (v : Byte) : (s.setReg .a v).p = s.p.setZN v := rfl
@[simp] theorem State.setReg_a_mem (s : State) (v : Byte) : (s.setReg .a v).mem = s.mem := rfl
@[simp] theorem State.setReg_a_cfg (s : State) (v : Byte) : (s.setReg .a v).cfg = s.cfg := rfl
@[simp] theorem State.setReg_a_budget (s : State) (v : Byte) : (s.setReg .a v).budget = s.budget := rfl

@[simp] theorem State.setReg_x_a (s : State) (v : Byte) : (s.setReg .x v).a = s.a := rfl
@[simp] theorem State.setReg_x_x (s : State) (v : Byte) : (s.setReg .x v).x = v := rfl
@[simp] theorem State.setReg_x_y (s : State) (v : Byte) : (s.setReg .x v).y = s.y := rfl
@[simp] theorem State.setReg_x_sp (s : State) (v : Byte) : (s.setReg .x v).sp = s.sp := rfl
@[simp] theorem State.setReg_x_pc (s : State) (v : Byte) : (s.setReg .x v).pc = s.pc := rfl
@[simp] theorem State.setReg_x_p (s : State) (v : Byte) : (s.setReg .x v).p = s.p.setZN v := rfl
@[simp] theorem State.setReg_x_mem (s : State) (v : Byte) : (s.setReg .x v).mem = s.mem := rfl
@[simp] theorem State.setReg_x_cfg (s : State) (v : Byte) : (s.setReg .x v).cfg = s.cfg := rfl
@[simp] theorem State.setReg_x_budget (s : State) (v : Byte) : (s.setReg .x v).budget = s.budget := rfl

@[simp] theorem State.setReg_y_a (s : State) (v : Byte) : (s.setReg .y v).a = s.a := rfl
@[simp] theorem State.setReg_y_x (s : State) (v : Byte) : (s.setReg .y v).x = s.x := rfl
@[simp] theorem State.setReg_y_y (s : State) (v : Byte) : (s.setReg .y v).y = v := rfl
@[simp] theorem State.setReg_y_sp (s : State) (v : Byte) : (s.setReg .y v).sp = s.sp := rfl
@[simp] theorem State.setReg_y_pc (s : State) (v : Byte) : (s.setReg .y v).pc = s.pc := rfl
@[simp] theorem State.setReg_y_p (s : State) (v : Byte) : (s.setReg .y v).p = s.p.setZN v := rfl
@[simp] theorem State.setReg_y_mem (s : State) (v : Byte) : (s.setReg .y v).mem = s.mem := rfl
@[simp] theorem State.setReg_y_cfg (s : State) (v : Byte) : (s.setReg .y v).cfg = s.cfg := rfl
@[simp] theorem State.setReg_y_budget (s : State) (v : Byte) : (s.setReg .y v).budget = s.budget := rfl

@[simp] theorem State.setSp_a (s : State) (v : Byte) : (s.setSp v).a = s.a := rfl
@[simp] theorem State.setSp_x (s : State) (v : Byte) : (s.setSp v).x = s.x := rfl
@[simp] theorem State.setSp_y (s : State) (v : Byte) : (s.setSp v).y = s.y := rfl
@[simp] theorem State.setSp_sp (s : State) (v : Byte) : (s.setSp v).sp = v := rfl
@[simp] theorem State.setSp_pc (s : State) (v : Byte) : (s.setSp v).pc = s.pc := rfl
@[simp] theorem State.setSp_p (s : State) (v : Byte) : (s.setSp v).p = s.p := rfl
@[simp] theorem State.setSp_mem (s : State) (v : Byte) : (s.setSp v).mem = s.mem := rfl
@[simp] theorem State.setSp_cfg (s : State) (v : Byte) : (s.setSp v).cfg = s.cfg := rfl
@[simp] theorem State.setSp_budget (s : State) (v : Byte) : (s.setSp v).budget = s.budget := rfl

@[simp] theorem State.setPc_a (s : State) (v : Addr) : (s.setPc v).a = s.a := rfl
@[simp] theorem State.setPc_x (s : State) (v : Addr) : (s.setPc v).x = s.x := rfl
@[simp] theorem State.setPc_y (s : State) (v : Addr) : (s.setPc v).y = s.y := rfl
@[simp] theorem State.setPc_sp (s : State) (v : Addr) : (s.setPc v).sp = s.sp := rfl
@[simp] theorem State.setPc_pc (s : State) (v : Addr) : (s.setPc v).pc = v := rfl
@[simp] theorem State.setPc_p (s : State) (v : Addr) : (s.setPc v).p = s.p := rfl
@[simp] theorem State.setPc_mem (s : State) (v : Addr) : (s.setPc v).mem = s.mem := rfl
@[simp] theorem State.setPc_cfg (s : State) (v : Addr) : (s.setPc v).cfg = s.cfg := rfl
@[simp] theorem State.setPc_budget (s : State) (v : Addr) : (s.setPc v).budget = s.budget := rfl

@[simp] theorem State.setFlags_a (s : State) (p : Flags) : (s.setFlags p).a = s.a := rfl
@[simp] theorem State.setFlags_x (s : State) (p : Flags) : (s.setFlags p).x = s.x := rfl
@[simp] theorem State.setFlags_y (s : State) (p : Flags) : (s.setFlags p).y = s.y := rfl
@[simp] theorem State.setFlags_sp (s : State) (p : Flags) : (s.setFlags p).sp = s.sp := rfl
@[simp] theorem State.setFlags_pc (s : State) (p : Flags) : (s.setFlags p).pc = s.pc := rfl
@[simp] theorem State.setFlags_p (s : State) (p : Flags) : (s.setFlags p).p = p := rfl
@[simp] theorem State.setFlags_mem (s : State) (p : Flags) : (s.setFlags p).mem = s.mem := rfl
@[simp] theorem State.setFlags_cfg (s : State) (p : Flags) : (s.setFlags p).cfg = s.cfg := rfl
@[simp] theorem State.setFlags_budget (s : State) (p : Flags) : (s.setFlags p).budget = s.budget := rfl

@[simp] theorem State.setCarry_a (s : State) (c : Bool) : (s.setCarry c).a = s.a := rfl
@[simp] theorem State.setCarry_x (s : State) (c : Bool) : (s.setCarry c).x = s.x := rfl
@[simp] theorem State.setCarry_y (s : State) (c : Bool) : (s.setCarry c).y = s.y := rfl
@[simp] theorem State.setCarry_sp (s : State) (c : Bool) : (s.setCarry c).sp = s.sp := rfl
@[simp] theorem State.setCarry_pc (s : State) (c : Bool) : (s.setCarry c).pc = s.pc := rfl
@[simp] theorem State.setCarry_p (s : State) (c : Bool) : (s.setCarry c).p = { s.p with c := c } := rfl
@[simp] theorem State.setCarry_mem (s : State) (c : Bool) : (s.setCarry c).mem = s.mem := rfl
@[simp] theorem State.setCarry_cfg (s : State) (c : Bool) : (s.setCarry c).cfg = s.cfg := rfl
@[simp] theorem State.setCarry_budget (s : State) (c : Bool) : (s.setCarry c).budget = s.budget := rfl

@[simp] theorem State.spend_a (s : State) (k : Nat) : (s.spend k).a = s.a := rfl
@[simp] theorem State.spend_x (s : State) (k : Nat) : (s.spend k).x = s.x := rfl
@[simp] theorem State.spend_y (s : State) (k : Nat) : (s.spend k).y = s.y := rfl
@[simp] theorem State.spend_sp (s : State) (k : Nat) : (s.spend k).sp = s.sp := rfl
@[simp] theorem State.spend_pc (s : State) (k : Nat) : (s.spend k).pc = s.pc := rfl
@[simp] theorem State.spend_p (s : State) (k : Nat) : (s.spend k).p = s.p := rfl
@[simp] theorem State.spend_mem (s : State) (k : Nat) : (s.spend k).mem = s.mem := rfl
@[simp] theorem State.spend_cfg (s : State) (k : Nat) : (s.spend k).cfg = s.cfg := rfl
@[simp] theorem State.spend_budget (s : State) (k : Nat) : (s.spend k).budget = s.budget - k := rfl

@[simp] theorem State.write_a (s : State) (addr : Addr) (v : Byte) : (s.write addr v).a = s.a := rfl
@[simp] theorem State.write_x (s : State) (addr : Addr) (v : Byte) : (s.write addr v).x = s.x := rfl
@[simp] theorem State.write_y (s : State) (addr : Addr) (v : Byte) : (s.write addr v).y = s.y := rfl
@[simp] theorem State.write_sp (s : State) (addr : Addr) (v : Byte) : (s.write addr v).sp = s.sp := rfl
@[simp] theorem State.write_pc (s : State) (addr : Addr) (v : Byte) : (s.write addr v).pc = s.pc := rfl
@[simp] theorem State.write_p (s : State) (addr : Addr) (v : Byte) : (s.write addr v).p = s.p := rfl
@[simp] theorem State.write_mem (s : State) (addr : Addr) (v : Byte) : (s.write addr v).mem = Memory.set s.mem addr.toNat v := rfl
@[simp] theorem State.write_cfg (s : State) (addr : Addr) (v : Byte) : (s.write addr v).cfg = s.cfg := rfl
@[simp] theorem State.write_budget (s : State) (addr : Addr) (v : Byte) : (s.write addr v).budget = s.budget := rfl

@[simp] theorem State.setReg_sp' (s : State) (r : Reg) (v : Byte) : (s.setReg r v).sp = s.sp := by cases r <;> rfl
@[simp] theorem State.setReg_pc' (s : State) (r : Reg) (v : Byte) : (s.setReg r v).pc = s.pc := by cases r <;> rfl
@[simp] theorem State.setReg_mem' (s : State) (r : Reg) (v : Byte) : (s.setReg r v).mem = s.mem := by cases r <;> rfl
@[simp] theorem State.setReg_cfg' (s : State) (r : Reg) (v : Byte) : (s.setReg r v).cfg = s.cfg := by cases r <;> rfl
@[simp] theorem State.setReg_budget' (s : State) (r : Reg) (v : Byte) : (s.setReg r v).budget = s.budget := by cases r <;> rfl
@[simp] theorem State.setReg_p' (s : State) (r : Reg) (v : Byte) : (s.setReg r v).p = s.p.setZN v := by cases r <;> rfl
@[simp] theorem State.setReg_same (s : State) (r : Reg) (v : Byte) : (s.setReg r v).reg r = v := by cases r <;> rfl

@[simp] theorem Flags.setZN_n (p : Flags) (v : Byte) : (p.setZN v).n = v.getLsbD 7 := rfl
@[simp] theorem Flags.setZN_v (p : Flags) (v : Byte) : (p.setZN v).v = p.v := rfl
@[simp] theorem Flags.setZN_b (p : Flags) (v : Byte) : (p.setZN v).b = p.b := rfl
@[simp] theorem Flags.setZN_d (p : Flags) (v : Byte) : (p.setZN v).d = p.d := rfl
@[simp] theorem Flags.setZN_i (p : Flags) (v : Byte) : (p.setZN v).i = p.i := rfl
@[simp] theorem Flags.setZN_z (p : Flags) (v : Byte) : (p.setZN v).z = (v == 0) := rfl
@[simp] theorem Flags.setZN_c (p : Flags) (v : Byte) : (p.setZN v).c = p.c := rfl

end Sys2Proof.Machine
end

