-- ==== Sys2Proof/Laws/Memory.lean ====
section
/-! SUPPORT. Memory: a read after a write, and the canonical form kept by every memory operation (spec/20_memory.md rule
R52, notes/assumptions/4.md). -/

namespace Sys2Proof.Machine

theorem Memory.get_erase (m : Memory) (a b : Nat) :
    Memory.get (Memory.erase m a) b = if b = a then 0 else Memory.get m b := by
  induction m with
  | nil => simp [Memory.erase, Memory.get]
  | cons c rest ih =>
    obtain ⟨k, w⟩ := c
    rw [Memory.erase] at ih
    by_cases hk : k = a
    · subst hk
      simp only [Memory.erase, Memory.get, ne_eq, not_true_eq_false, decide_false, Bool.false_eq_true,
        not_false_eq_true, List.filter_cons_of_neg, ih]
      by_cases hb : b = k
      · simp [hb]
      · simp [hb, Ne.symm hb]
    · simp only [Memory.erase, ne_eq, hk, not_false_eq_true, decide_true, List.filter_cons_of_pos, Memory.get, ih]
      by_cases hkb : k = b
      · subst hkb
        simp [hk]
      · simp [hkb]

theorem Memory.get_insert (m : Memory) (a b : Nat) (v : Byte) (h : Memory.get m a = 0) (hm : ∀ c ∈ m, c.1 ≠ a) :
    Memory.get (Memory.insert m a v) b = if b = a then v else Memory.get m b := by
  induction m with
  | nil =>
    by_cases hb : b = a
    · simp [Memory.insert, Memory.get, hb]
    · simp [Memory.insert, Memory.get, hb, Ne.symm hb]
  | cons c rest ih =>
    obtain ⟨k, w⟩ := c
    have hk : k ≠ a := hm (k, w) (by simp)
    have hrest : Memory.get (Memory.insert rest a v) b = if b = a then v else Memory.get rest b :=
      ih (by simpa [Memory.get, hk] using h) fun c hc => hm c (by simp [hc])
    by_cases hlt : a < k
    · by_cases hb : b = a
      · simp [Memory.insert, hlt, Memory.get, hb]
      · simp [Memory.insert, hlt, Memory.get, hb, Ne.symm hb]
    · by_cases hkb : k = b
      · subst hkb
        simp [Memory.insert, hlt, Memory.get, hk]
      · simp [Memory.insert, hlt, Memory.get, hkb, hrest]

theorem Memory.erase_ne (m : Memory) (a : Nat) : ∀ c ∈ Memory.erase m a, c.1 ≠ a := by
  intro c hc
  simpa using (List.mem_filter.1 hc).2

/-- Reading any address after a write: the byte written there, and every other byte as before (rule R52). -/
theorem Memory.get_set (m : Memory) (a b : Nat) (v : Byte) :
    Memory.get (Memory.set m a v) b = if b = a then v else Memory.get m b := by
  by_cases hv : v = 0
  · simp [Memory.set, hv, Memory.get_erase]
  · have hz : Memory.get (Memory.erase m a) a = 0 := by simp [Memory.get_erase]
    rw [Memory.set, if_neg hv, Memory.get_insert _ _ _ _ hz (Memory.erase_ne m a), Memory.get_erase]
    by_cases hb : b = a <;> simp [hb]

theorem Memory.erase_wf {m : Memory} (h : Memory.wf m) (a : Nat) : Memory.wf (Memory.erase m a) :=
  ⟨h.1.filter _, fun c hc => h.2 c (List.mem_filter.1 hc).1⟩

theorem Memory.mem_insert {m : Memory} {a : Nat} {v : Byte} {c : Host.Cell} :
    c ∈ Memory.insert m a v ↔ c = (a, v) ∨ c ∈ m := by
  induction m with
  | nil => simp [Memory.insert]
  | cons d rest ih =>
    by_cases hlt : a < d.1
    · simp [Memory.insert, hlt]
    · simp only [Memory.insert, hlt, if_false, List.mem_cons, ih]
      tauto

theorem Memory.insert_wf {m : Memory} (h : Memory.wf m) {a : Nat} (ha : a < 65536) {v : Byte} (hv : v ≠ 0)
    (hm : ∀ c ∈ m, c.1 ≠ a) : Memory.wf (Memory.insert m a v) := by
  refine ⟨?_, fun c hc => ?_⟩
  · induction m with
    | nil => simp [Memory.insert]
    | cons d rest ih =>
      have hd := List.pairwise_cons.1 h.1
      by_cases hlt : a < d.1
      · simp only [Memory.insert, hlt, if_true]
        refine List.pairwise_cons.2 ⟨fun c hc => ?_, h.1⟩
        rcases List.mem_cons.1 hc with rfl | hc
        · exact hlt
        · exact hlt.trans (hd.1 c hc)
      · simp only [Memory.insert, hlt, if_false]
        have hne : d.1 ≠ a := hm d (by simp)
        refine List.pairwise_cons.2 ⟨fun c hc => ?_, ih ⟨hd.2, fun c hc => h.2 c (by simp [hc])⟩
          fun c hc => hm c (by simp [hc])⟩
        rcases Memory.mem_insert.1 hc with rfl | hc
        · show d.1 < a
          omega
        · exact hd.1 c hc
  · rcases Memory.mem_insert.1 hc with rfl | hc
    · exact ⟨ha, hv⟩
    · exact h.2 c hc

/-- Every write keeps the canonical form. -/
theorem Memory.set_wf {m : Memory} (h : Memory.wf m) {a : Nat} (ha : a < 65536) (v : Byte) :
    Memory.wf (Memory.set m a v) := by
  by_cases hv : v = 0
  · simpa [Memory.set, hv] using Memory.erase_wf h a
  · rw [Memory.set, if_neg hv]
    exact Memory.insert_wf (Memory.erase_wf h a) ha hv (Memory.erase_ne m a)

/-- `State.read` after `State.write`. -/
@[simp] theorem State.read_write (s : State) (a b : Addr) (v : Byte) :
    (s.write a v).read b = if b = a then v else s.read b := by
  simp [State.read, Memory.get_set, BitVec.toNat_inj]

theorem State.write_wf {s : State} (h : Memory.wf s.mem) (a : Addr) (v : Byte) : Memory.wf (s.write a v).mem :=
  Memory.set_wf h a.isLt v

/-- A read sees the memory alone. -/
theorem State.read_congr {s t : State} (h : s.mem = t.mem) (a : Addr) : s.read a = t.read a := by
  simp [State.read, h]

end Sys2Proof.Machine
end

