-- ==== Sys2Proof/Laws/Ops.lean ====
section
/-! SUPPORT. What each shared operation of Machine/Ops.lean can do, said once: the stack engine (spec/20_memory.md section
3), trap entry and return (spec/60_exceptions.md section 3), and the in-place changes of a byte. -/

namespace Sys2Proof.Machine

/-! ## The stack engine -/

/-- "The stack address never leaves the stack page" (rule R63): its page is that of `STACK_BASE`. -/
theorem stackAddr_toNat (sp : Byte) : (stackAddr sp).toNat = 0x100 + sp.toNat := by
  have := sp.isLt
  simp [stackAddr, stackBase, zext16]
  omega

@[simp] theorem stackAddr_inj (p q : Byte) : stackAddr p = stackAddr q ↔ p = q := by
  rw [← BitVec.toNat_inj, ← BitVec.toNat_inj, stackAddr_toNat, stackAddr_toNat]
  omega

/-- `Push8` in one equation (rule R60). -/
theorem State.push8_eq (s : State) (v : Byte) :
    s.push8 v = { s with mem := (s.write (stackAddr s.sp) v).mem, sp := s.sp + 1 } := rfl

@[simp] theorem State.push8_a (s : State) (v : Byte) : (s.push8 v).a = s.a := rfl
@[simp] theorem State.push8_x (s : State) (v : Byte) : (s.push8 v).x = s.x := rfl
@[simp] theorem State.push8_y (s : State) (v : Byte) : (s.push8 v).y = s.y := rfl
@[simp] theorem State.push8_sp (s : State) (v : Byte) : (s.push8 v).sp = s.sp + 1 := rfl
@[simp] theorem State.push8_pc (s : State) (v : Byte) : (s.push8 v).pc = s.pc := rfl
@[simp] theorem State.push8_p (s : State) (v : Byte) : (s.push8 v).p = s.p := rfl
@[simp] theorem State.push8_cfg (s : State) (v : Byte) : (s.push8 v).cfg = s.cfg := rfl
@[simp] theorem State.push8_budget (s : State) (v : Byte) : (s.push8 v).budget = s.budget := rfl

/-- `Pop8` in one equation (rule R61). -/
theorem State.pop8_eq (s : State) :
    s.pop8 = (s.read (stackAddr (s.sp - 1)), { s with sp := s.sp - 1 }) := rfl

@[simp] theorem State.pop8_a (s : State) : (s.pop8.2).a = s.a := rfl
@[simp] theorem State.pop8_x (s : State) : (s.pop8.2).x = s.x := rfl
@[simp] theorem State.pop8_y (s : State) : (s.pop8.2).y = s.y := rfl
@[simp] theorem State.pop8_sp (s : State) : (s.pop8.2).sp = s.sp - 1 := rfl
@[simp] theorem State.pop8_pc (s : State) : (s.pop8.2).pc = s.pc := rfl
@[simp] theorem State.pop8_p (s : State) : (s.pop8.2).p = s.p := rfl
@[simp] theorem State.pop8_mem (s : State) : (s.pop8.2).mem = s.mem := rfl
@[simp] theorem State.pop8_cfg (s : State) : (s.pop8.2).cfg = s.cfg := rfl
@[simp] theorem State.pop8_budget (s : State) : (s.pop8.2).budget = s.budget := rfl

@[simp] theorem State.push8_read (s : State) (v : Byte) (a : Addr) :
    (s.push8 v).read a = if a = stackAddr s.sp then v else s.read a := State.read_write s (stackAddr s.sp) a v

theorem State.push8_wf {s : State} (h : Memory.wf s.mem) (v : Byte) : Memory.wf (s.push8 v).mem :=
  State.write_wf h (stackAddr s.sp) v

/-- "`Pop8` undoes `Push8`" (rule R61): the byte, and SP as before. -/
theorem State.pop8_push8 (s : State) (v : Byte) :
    (s.push8 v).pop8.1 = v ∧ (s.push8 v).pop8.2.sp = s.sp := by
  simp [State.pop8_eq, State.push8_eq, State.read, Memory.get_set]

/-- `Push16` in one equation (rule R62): the low byte at the old SP, the high byte above it. -/
theorem State.push16_eq (s : State) (w : Addr) :
    s.push16 w = { s with mem := (s.push16 w).mem, sp := s.sp + 2 } := by
  simp [State.push16, State.push8_eq, BitVec.add_assoc]

@[simp] theorem State.push16_a (s : State) (w : Addr) : (s.push16 w).a = s.a := by rw [State.push16_eq]
@[simp] theorem State.push16_x (s : State) (w : Addr) : (s.push16 w).x = s.x := by rw [State.push16_eq]
@[simp] theorem State.push16_y (s : State) (w : Addr) : (s.push16 w).y = s.y := by rw [State.push16_eq]
@[simp] theorem State.push16_sp (s : State) (w : Addr) : (s.push16 w).sp = s.sp + 2 := by rw [State.push16_eq]
@[simp] theorem State.push16_pc (s : State) (w : Addr) : (s.push16 w).pc = s.pc := by rw [State.push16_eq]
@[simp] theorem State.push16_p (s : State) (w : Addr) : (s.push16 w).p = s.p := by rw [State.push16_eq]
@[simp] theorem State.push16_cfg (s : State) (w : Addr) : (s.push16 w).cfg = s.cfg := by rw [State.push16_eq]
@[simp] theorem State.push16_budget (s : State) (w : Addr) : (s.push16 w).budget = s.budget := by rw [State.push16_eq]

theorem State.push16_read (s : State) (w : Addr) (a : Addr) :
    (s.push16 w).read a = if a = stackAddr (s.sp + 1) then hiByte w
      else if a = stackAddr s.sp then loByte w else s.read a := by
  rw [State.push16, State.push8_read, State.push8_read]
  rfl

theorem State.push16_wf {s : State} (h : Memory.wf s.mem) (w : Addr) : Memory.wf (s.push16 w).mem :=
  State.push8_wf (State.push8_wf h _) _

/-- `Pop16` in one equation (rule R62): the high byte below SP, the low byte below that. -/
theorem State.pop16_eq (s : State) :
    s.pop16 = (joinBytes (s.read (stackAddr (s.sp - 1))) (s.read (stackAddr (s.sp - 2))), { s with sp := s.sp - 2 }) := by
  simp only [State.pop16, State.pop8_eq]
  have h : s.sp - 1 - 1 = s.sp - 2 := by bv_omega
  rw [h]
  rfl

@[simp] theorem State.pop16_a (s : State) : (s.pop16.2).a = s.a := by rw [State.pop16_eq]
@[simp] theorem State.pop16_x (s : State) : (s.pop16.2).x = s.x := by rw [State.pop16_eq]
@[simp] theorem State.pop16_y (s : State) : (s.pop16.2).y = s.y := by rw [State.pop16_eq]
@[simp] theorem State.pop16_sp (s : State) : (s.pop16.2).sp = s.sp - 2 := by rw [State.pop16_eq]
@[simp] theorem State.pop16_pc (s : State) : (s.pop16.2).pc = s.pc := by rw [State.pop16_eq]
@[simp] theorem State.pop16_p (s : State) : (s.pop16.2).p = s.p := by rw [State.pop16_eq]
@[simp] theorem State.pop16_mem (s : State) : (s.pop16.2).mem = s.mem := by rw [State.pop16_eq]
@[simp] theorem State.pop16_cfg (s : State) : (s.pop16.2).cfg = s.cfg := by rw [State.pop16_eq]
@[simp] theorem State.pop16_budget (s : State) : (s.pop16.2).budget = s.budget := by rw [State.pop16_eq]

/-! ## Trap entry and return -/

/-- Trap entry in one equation (rule R384). -/
theorem State.takeBreak_eq (s : State) :
    s.takeBreak = { s with
      mem := ((s.push16 s.pc).push8 s.p.pack).mem, sp := s.sp + 3,
      pc := ((s.push16 s.pc).push8 s.p.pack).read16 irqVector, p := { s.p with b := true } } := by
  have hsp : s.sp + 2 + 1 = s.sp + 3 := by rw [BitVec.add_assoc]; rfl
  simp only [State.takeBreak, State.setPc, State.setFlags]
  rw [State.push8_p, State.push16_p, State.push8_sp, State.push16_sp, hsp]
  simp only [State.push8_a, State.push8_x, State.push8_y, State.push8_cfg, State.push8_budget, State.push16_a,
    State.push16_x, State.push16_y, State.push16_cfg, State.push16_budget]

@[simp] theorem State.takeBreak_a (s : State) : (s.takeBreak).a = s.a := by rw [State.takeBreak_eq]
@[simp] theorem State.takeBreak_x (s : State) : (s.takeBreak).x = s.x := by rw [State.takeBreak_eq]
@[simp] theorem State.takeBreak_y (s : State) : (s.takeBreak).y = s.y := by rw [State.takeBreak_eq]
@[simp] theorem State.takeBreak_sp (s : State) : (s.takeBreak).sp = s.sp + 3 := by rw [State.takeBreak_eq]
@[simp] theorem State.takeBreak_p (s : State) : (s.takeBreak).p = { s.p with b := true } := by rw [State.takeBreak_eq]
@[simp] theorem State.takeBreak_cfg (s : State) : (s.takeBreak).cfg = s.cfg := by rw [State.takeBreak_eq]
@[simp] theorem State.takeBreak_budget (s : State) : (s.takeBreak).budget = s.budget := by rw [State.takeBreak_eq]

theorem State.takeBreak_wf {s : State} (h : Memory.wf s.mem) : Memory.wf s.takeBreak.mem := by
  rw [State.takeBreak_eq]
  exact State.push8_wf (State.push16_wf h s.pc) s.p.pack

/-- Trap return in one equation (rule R385). -/
theorem State.returnFromBreak_eq (s : State) :
    s.returnFromBreak = { s with
      sp := s.sp - 3,
      pc := joinBytes (s.read (stackAddr (s.sp - 2))) (s.read (stackAddr (s.sp - 3))),
      p := { Flags.unpack (s.read (stackAddr (s.sp - 1))) with b := false } } := by
  have h2 : s.sp - 1 - 1 = s.sp - 2 := by bv_omega
  have h3 : s.sp - 1 - 2 = s.sp - 3 := by bv_omega
  have hr (a : Addr) : ({ s with sp := s.sp - 1 } : State).read a = s.read a := State.read_congr rfl a
  rw [State.returnFromBreak, State.pop8_eq]
  dsimp only
  rw [State.pop16_eq]
  dsimp only
  rw [hr, hr, h2, h3]
  rfl

@[simp] theorem State.returnFromBreak_a (s : State) : (s.returnFromBreak).a = s.a := by rw [State.returnFromBreak_eq]
@[simp] theorem State.returnFromBreak_x (s : State) : (s.returnFromBreak).x = s.x := by rw [State.returnFromBreak_eq]
@[simp] theorem State.returnFromBreak_y (s : State) : (s.returnFromBreak).y = s.y := by rw [State.returnFromBreak_eq]
@[simp] theorem State.returnFromBreak_sp (s : State) : (s.returnFromBreak).sp = s.sp - 3 := by rw [State.returnFromBreak_eq]
@[simp] theorem State.returnFromBreak_mem (s : State) : (s.returnFromBreak).mem = s.mem := by rw [State.returnFromBreak_eq]
@[simp] theorem State.returnFromBreak_cfg (s : State) : (s.returnFromBreak).cfg = s.cfg := by rw [State.returnFromBreak_eq]
@[simp] theorem State.returnFromBreak_budget (s : State) : (s.returnFromBreak).budget = s.budget := by rw [State.returnFromBreak_eq]

/-! ## Changing a byte in place -/

/-- `ACCF(f)` in one equation. -/
theorem State.shiftAcc_eq (s : State) (f : Bool → Byte → Byte × Bool) :
    s.shiftAcc f = { s with a := (f s.p.c s.a).1, p := { s.p with c := (f s.p.c s.a).2 }.setZN (f s.p.c s.a).1 } := rfl

/-- `RMW(f)` of a shift in one equation: the byte at `ea`, C, Z and N. -/
theorem State.shiftMem_eq (s : State) (f : Bool → Byte → Byte × Bool) (ea : Addr) :
    s.shiftMem f ea = { s with
      mem := (s.write ea (f s.p.c (s.read ea)).1).mem
      p := { s.p with c := (f s.p.c (s.read ea)).2 }.setZN (f s.p.c (s.read ea)).1 } := rfl

/-- `RMW(f)` of INC and DEC in one equation: the byte at `ea`, Z and N. -/
theorem State.updateMem_eq (s : State) (f : Byte → Byte) (ea : Addr) :
    s.updateMem f ea = { s with
      mem := (s.write ea (f (s.read ea))).mem, p := s.p.setZN (f (s.read ea)) } := rfl

end Sys2Proof.Machine
end

