-- ==== Sys2Proof/Laws/Exec.lean ====
section
/-! SUPPORT. What the operations that several meanings share can answer, said once as an equation on the whole state; and
what `exec` can do to memory, said once for every instruction. -/

namespace Sys2Proof.Machine

/-! ## The shared meanings -/

/-- ADC and SBC either raise the decimal fault or write A, the four flags and the budget (spec/41_alu.md rule R150). -/
theorem addWithCarry_cases (i : Instr) (o : Operand) (m : Byte) (s : State) :
    (s.decimalFaults ∧ addWithCarry i o m s = .fault (decimalFault i s)) ∨
    (¬ s.decimalFaults ∧ addWithCarry i o m s = .next { s with
      a := adcResult s.a m s.p.c, p := s.p.afterAdc s.a m, budget := s.budget - s.readCost o }) := by
  by_cases h : s.decimalFaults
  · exact .inl ⟨h, by rw [addWithCarry, if_pos h]⟩
  · exact .inr ⟨h, by rw [addWithCarry, if_neg h]; rfl⟩

theorem logic_eq (f : Byte → Byte → Byte) (o : Operand) (s : State) :
    logic f o s = .next { s with
      a := f s.a (s.operand o), p := s.p.setZN (f s.a (s.operand o)), budget := s.budget - s.readCost o } := rfl

theorem compare_eq (r : Reg) (o : Operand) (s : State) :
    compare r o s = .next { s with
      p := s.p.afterCompare (s.reg r) (s.operand o), budget := s.budget - s.readCost o } := rfl

theorem shift_acc_eq (f : Bool → Byte → Byte × Bool) (s : State) :
    shift f .acc s = .next { s with
      a := (f s.p.c s.a).1, p := { s.p with c := (f s.p.c s.a).2 }.setZN (f s.p.c s.a).1,
      budget := s.budget - 2 } := rfl

theorem shift_mem_eq (f : Bool → Byte → Byte × Bool) (m : MemMode) (s : State) :
    shift f (.mem m) s = .next { s with
      mem := (s.write (s.ea m) (f s.p.c (s.read (s.ea m))).1).mem,
      p := { s.p with c := (f s.p.c (s.read (s.ea m))).2 }.setZN (f s.p.c (s.read (s.ea m))).1,
      budget := s.budget - rmwCycles m } := rfl

theorem update_eq (f : Byte → Byte) (m : MemMode) (s : State) :
    update f m s = .next { s with
      mem := (s.write (s.ea m) (f (s.read (s.ea m)))).mem, p := s.p.setZN (f (s.read (s.ea m))),
      budget := s.budget - rmwCycles m } := rfl

theorem store_eq (r : Reg) (m : MemMode) (s : State) :
    store r m s = .next { s with
      mem := (s.write (s.ea m) (s.reg r)).mem, budget := s.budget - storeCycles m } := rfl

/-- A branch writes the PC and the budget alone (spec/45_control_flow.md rule R324). -/
theorem branch_eq (taken : Bool) (off : Byte) (s : State) :
    branch taken off s = .next { s with
      pc := if taken then s.branchTarget off else s.pc,
      budget := s.budget - s.branchCycles taken off } := by
  cases taken <;> rfl

/-! ## What an instruction can do to memory -/

/-- The memory after bytes are written one after another. -/
def Memory.setAll (m : Memory) : List (Addr × Byte) → Memory
  | [] => m
  | (a, v) :: rest => Memory.setAll (Memory.set m a.toNat v) rest

theorem Memory.setAll_wf {m : Memory} (h : Memory.wf m) (ws : List (Addr × Byte)) : Memory.wf (Memory.setAll m ws) := by
  induction ws generalizing m with
  | nil => exact h
  | cons w rest ih => exact ih (Memory.set_wf h w.1.isLt w.2)

theorem Memory.get_setAll_of_notMem {m : Memory} {ws : List (Addr × Byte)} {b : Addr} (h : b ∉ ws.map Prod.fst) :
    Memory.get (Memory.setAll m ws) b.toNat = Memory.get m b.toNat := by
  induction ws generalizing m with
  | nil => rfl
  | cons w rest ih =>
    rw [List.map_cons, List.mem_cons, not_or] at h
    rw [Memory.setAll, ih h.2, Memory.get_set, if_neg (by simpa [BitVec.toNat_inj] using h.1)]

/-- Every instruction that completes leaves memory as it was but for one byte written at each of its store addresses, in
order (spec/40_dispatch_addressing.md rules R126, R127). -/
theorem exec_mem {i : Instr} {s t : State} (h : exec i s = .next t) :
    ∃ ws : List (Addr × Byte), ws.map Prod.fst = i.storeAddrs s ∧ t.mem = Memory.setAll s.mem ws := by
  have keep (hs : i.storeAddrs s = []) (hm : t.mem = s.mem) :
      ∃ ws : List (Addr × Byte), ws.map Prod.fst = i.storeAddrs s ∧ t.mem = Memory.setAll s.mem ws :=
    ⟨[], hs.symm, hm⟩
  have one {a : Addr} {v : Byte} (hs : i.storeAddrs s = [a]) (hm : t.mem = (s.write a v).mem) :
      ∃ ws : List (Addr × Byte), ws.map Prod.fst = i.storeAddrs s ∧ t.mem = Memory.setAll s.mem ws :=
    ⟨[(a, v)], hs.symm, hm⟩
  cases i
  case adc o =>
    rcases addWithCarry_cases (.adc o) o (s.operand o) s with ⟨-, hf⟩ | ⟨-, hn⟩
    · exact absurd (hf.symm.trans h) nofun
    · cases hn.symm.trans h
      exact keep rfl rfl
  case sbc o =>
    rcases addWithCarry_cases (.sbc o) o (~~~(s.operand o)) s with ⟨-, hf⟩ | ⟨-, hn⟩
    · exact absurd (hf.symm.trans h) nofun
    · cases hn.symm.trans h
      exact keep rfl rfl
  case asl u | lsr u | rol u | ror u =>
    all_goals
      cases u <;> cases h
      · exact keep rfl rfl
      · exact one rfl rfl
  case inc m | dec m | sta m | stx m | sty m => all_goals cases h; exact one rfl rfl
  case pha | php => all_goals cases h; exact one rfl rfl
  case jsr a =>
    cases h
    exact ⟨[(stackAddr s.sp, loByte (s.pc - 1)), (stackAddr (s.sp + 1), hiByte (s.pc - 1))], rfl, rfl⟩
  case brk =>
    cases h
    exact ⟨[(stackAddr s.sp, loByte s.pc), (stackAddr (s.sp + 1), hiByte s.pc),
      (stackAddr (s.sp + 1 + 1), s.p.pack)], rfl, rfl⟩
  case bpl r | bmi r | bvc r | bvs r | bcc r | bcs r | bne r | beq r =>
    all_goals
      cases (branch_eq _ _ s).symm.trans h
      exact keep rfl rfl
  case illegal op =>
    rw [exec, execIllegal] at h
    split at h <;> cases h
    exact keep rfl rfl
  all_goals
    cases h
    exact keep rfl rfl

/-- Every outcome of `exec` that is not a next state is one
of the two faults of spec/60_exceptions.md rule R380, under its policy. -/
theorem exec_outcome (i : Instr) (s : State) :
    runs (exec i s) ∨
    (s.decimalFaults ∧ ((∃ o, i = .adc o) ∨ ∃ o, i = .sbc o) ∧ exec i s = .fault (decimalFault i s)) ∨
    (s.cfg.illegalPolicy = .fault ∧ ∃ op, i = .illegal op ∧ exec i s = .fault (.illegalOpcode op (s.pc - 1))) := by
  cases i
  case adc o =>
    rcases addWithCarry_cases (.adc o) o (s.operand o) s with ⟨hd, hf⟩ | ⟨-, hn⟩
    · exact .inr (.inl ⟨hd, .inl ⟨o, rfl⟩, hf⟩)
    · exact .inl ⟨_, hn⟩
  case sbc o =>
    rcases addWithCarry_cases (.sbc o) o (~~~(s.operand o)) s with ⟨hd, hf⟩ | ⟨-, hn⟩
    · exact .inr (.inl ⟨hd, .inr ⟨o, rfl⟩, hf⟩)
    · exact .inl ⟨_, hn⟩
  case asl u | lsr u | rol u | ror u => all_goals cases u <;> exact .inl ⟨_, rfl⟩
  case illegal op =>
    cases hp : s.cfg.illegalPolicy
    · exact .inl ⟨s.spend 1, by rw [exec, execIllegal, hp]⟩
    · exact .inr (.inr ⟨rfl, op, rfl, by rw [exec, execIllegal, hp]⟩)
  all_goals exact .inl ⟨_, rfl⟩

end Sys2Proof.Machine
end

