-- ==== Sys2Proof/Laws/PerInstr.lean ====
section
/-! SUPPORT. One fact per instruction, as syntax: it has an encoding exactly when the mode lists of Instr.wf have its mode
(spec/30_encoding.md rules R81, R85, R86), and its encoding is as long as its mode says. -/

namespace Sys2Proof.Laws.Encodable

/-- The encoder, written from the opcode numbers, and `Instr.wf`, written from the mode lists, agree on `i`. -/
def Statement (i : Instr) : Prop :=
  (encode i).isSome = i.wf ∧ ∀ bs, encode i = some bs → bs.length = i.length

theorem adc (o : Operand) : Statement (.adc o) := by
  rcases o with n | m
  · exact ⟨rfl, by rintro _ ⟨⟩; rfl⟩
  · cases m <;> exact ⟨rfl, by rintro _ ⟨⟩ <;> rfl⟩

theorem sbc (o : Operand) : Statement (.sbc o) := by
  rcases o with n | m
  · exact ⟨rfl, by rintro _ ⟨⟩; rfl⟩
  · cases m <;> exact ⟨rfl, by rintro _ ⟨⟩ <;> rfl⟩

theorem and (o : Operand) : Statement (.and o) := by
  rcases o with n | m
  · exact ⟨rfl, by rintro _ ⟨⟩; rfl⟩
  · cases m <;> exact ⟨rfl, by rintro _ ⟨⟩ <;> rfl⟩

theorem ora (o : Operand) : Statement (.ora o) := by
  rcases o with n | m
  · exact ⟨rfl, by rintro _ ⟨⟩; rfl⟩
  · cases m <;> exact ⟨rfl, by rintro _ ⟨⟩ <;> rfl⟩

theorem eor (o : Operand) : Statement (.eor o) := by
  rcases o with n | m
  · exact ⟨rfl, by rintro _ ⟨⟩; rfl⟩
  · cases m <;> exact ⟨rfl, by rintro _ ⟨⟩ <;> rfl⟩

theorem cmp (o : Operand) : Statement (.cmp o) := by
  rcases o with n | m
  · exact ⟨rfl, by rintro _ ⟨⟩; rfl⟩
  · cases m <;> exact ⟨rfl, by rintro _ ⟨⟩ <;> rfl⟩

theorem cpx (o : Operand) : Statement (.cpx o) := by
  rcases o with n | m
  · exact ⟨rfl, by rintro _ ⟨⟩; rfl⟩
  · cases m <;> exact ⟨rfl, by rintro _ ⟨⟩ <;> rfl⟩

theorem cpy (o : Operand) : Statement (.cpy o) := by
  rcases o with n | m
  · exact ⟨rfl, by rintro _ ⟨⟩; rfl⟩
  · cases m <;> exact ⟨rfl, by rintro _ ⟨⟩ <;> rfl⟩

theorem bit (m : MemMode) : Statement (.bit m) := by cases m <;> exact ⟨rfl, by rintro _ ⟨⟩ <;> rfl⟩

theorem asl (t : Target) : Statement (.asl t) := by
  rcases t with _ | m
  · exact ⟨rfl, by rintro _ ⟨⟩; rfl⟩
  · cases m <;> exact ⟨rfl, by rintro _ ⟨⟩ <;> rfl⟩

theorem lsr (t : Target) : Statement (.lsr t) := by
  rcases t with _ | m
  · exact ⟨rfl, by rintro _ ⟨⟩; rfl⟩
  · cases m <;> exact ⟨rfl, by rintro _ ⟨⟩ <;> rfl⟩

theorem rol (t : Target) : Statement (.rol t) := by
  rcases t with _ | m
  · exact ⟨rfl, by rintro _ ⟨⟩; rfl⟩
  · cases m <;> exact ⟨rfl, by rintro _ ⟨⟩ <;> rfl⟩

theorem ror (t : Target) : Statement (.ror t) := by
  rcases t with _ | m
  · exact ⟨rfl, by rintro _ ⟨⟩; rfl⟩
  · cases m <;> exact ⟨rfl, by rintro _ ⟨⟩ <;> rfl⟩

theorem inc (m : MemMode) : Statement (.inc m) := by cases m <;> exact ⟨rfl, by rintro _ ⟨⟩ <;> rfl⟩

theorem dec (m : MemMode) : Statement (.dec m) := by cases m <;> exact ⟨rfl, by rintro _ ⟨⟩ <;> rfl⟩

theorem inx : Statement .inx := ⟨rfl, by rintro _ ⟨⟩; rfl⟩

theorem iny : Statement .iny := ⟨rfl, by rintro _ ⟨⟩; rfl⟩

theorem dex : Statement .dex := ⟨rfl, by rintro _ ⟨⟩; rfl⟩

theorem dey : Statement .dey := ⟨rfl, by rintro _ ⟨⟩; rfl⟩

theorem lda (o : Operand) : Statement (.lda o) := by
  rcases o with n | m
  · exact ⟨rfl, by rintro _ ⟨⟩; rfl⟩
  · cases m <;> exact ⟨rfl, by rintro _ ⟨⟩ <;> rfl⟩

theorem ldx (o : Operand) : Statement (.ldx o) := by
  rcases o with n | m
  · exact ⟨rfl, by rintro _ ⟨⟩; rfl⟩
  · cases m <;> exact ⟨rfl, by rintro _ ⟨⟩ <;> rfl⟩

theorem ldy (o : Operand) : Statement (.ldy o) := by
  rcases o with n | m
  · exact ⟨rfl, by rintro _ ⟨⟩; rfl⟩
  · cases m <;> exact ⟨rfl, by rintro _ ⟨⟩ <;> rfl⟩

theorem sta (m : MemMode) : Statement (.sta m) := by cases m <;> exact ⟨rfl, by rintro _ ⟨⟩ <;> rfl⟩

theorem stx (m : MemMode) : Statement (.stx m) := by cases m <;> exact ⟨rfl, by rintro _ ⟨⟩ <;> rfl⟩

theorem sty (m : MemMode) : Statement (.sty m) := by cases m <;> exact ⟨rfl, by rintro _ ⟨⟩ <;> rfl⟩

theorem tax : Statement .tax := ⟨rfl, by rintro _ ⟨⟩; rfl⟩

theorem tay : Statement .tay := ⟨rfl, by rintro _ ⟨⟩; rfl⟩

theorem txa : Statement .txa := ⟨rfl, by rintro _ ⟨⟩; rfl⟩

theorem tya : Statement .tya := ⟨rfl, by rintro _ ⟨⟩; rfl⟩

theorem tsx : Statement .tsx := ⟨rfl, by rintro _ ⟨⟩; rfl⟩

theorem txs : Statement .txs := ⟨rfl, by rintro _ ⟨⟩; rfl⟩

theorem pha : Statement .pha := ⟨rfl, by rintro _ ⟨⟩; rfl⟩

theorem php : Statement .php := ⟨rfl, by rintro _ ⟨⟩; rfl⟩

theorem pla : Statement .pla := ⟨rfl, by rintro _ ⟨⟩; rfl⟩

theorem plp : Statement .plp := ⟨rfl, by rintro _ ⟨⟩; rfl⟩

theorem jmpAbs (addr : Addr) : Statement (.jmpAbs addr) := ⟨rfl, by rintro _ ⟨⟩; rfl⟩

theorem jmpInd (ptr : Addr) : Statement (.jmpInd ptr) := ⟨rfl, by rintro _ ⟨⟩; rfl⟩

theorem jsr (addr : Addr) : Statement (.jsr addr) := ⟨rfl, by rintro _ ⟨⟩; rfl⟩

theorem rts : Statement .rts := ⟨rfl, by rintro _ ⟨⟩; rfl⟩

theorem bpl (off : Byte) : Statement (.bpl off) := ⟨rfl, by rintro _ ⟨⟩; rfl⟩

theorem bmi (off : Byte) : Statement (.bmi off) := ⟨rfl, by rintro _ ⟨⟩; rfl⟩

theorem bvc (off : Byte) : Statement (.bvc off) := ⟨rfl, by rintro _ ⟨⟩; rfl⟩

theorem bvs (off : Byte) : Statement (.bvs off) := ⟨rfl, by rintro _ ⟨⟩; rfl⟩

theorem bcc (off : Byte) : Statement (.bcc off) := ⟨rfl, by rintro _ ⟨⟩; rfl⟩

theorem bcs (off : Byte) : Statement (.bcs off) := ⟨rfl, by rintro _ ⟨⟩; rfl⟩

theorem bne (off : Byte) : Statement (.bne off) := ⟨rfl, by rintro _ ⟨⟩; rfl⟩

theorem beq (off : Byte) : Statement (.beq off) := ⟨rfl, by rintro _ ⟨⟩; rfl⟩

theorem clc : Statement .clc := ⟨rfl, by rintro _ ⟨⟩; rfl⟩

theorem sec : Statement .sec := ⟨rfl, by rintro _ ⟨⟩; rfl⟩

theorem cli : Statement .cli := ⟨rfl, by rintro _ ⟨⟩; rfl⟩

theorem sei : Statement .sei := ⟨rfl, by rintro _ ⟨⟩; rfl⟩

theorem cld : Statement .cld := ⟨rfl, by rintro _ ⟨⟩; rfl⟩

theorem sed : Statement .sed := ⟨rfl, by rintro _ ⟨⟩; rfl⟩

theorem clv : Statement .clv := ⟨rfl, by rintro _ ⟨⟩; rfl⟩

theorem nop : Statement .nop := ⟨rfl, by rintro _ ⟨⟩; rfl⟩

theorem brk : Statement .brk := ⟨rfl, by rintro _ ⟨⟩; rfl⟩

theorem rti : Statement .rti := ⟨rfl, by rintro _ ⟨⟩; rfl⟩

theorem illegal (op : Byte) : Statement (.illegal op) := by
  have hop : encode (.illegal op) = if illegalBytes.contains op then some [op] else none := by
    simp only [encode, Instr.opcode, Instr.operandBytes]
    split <;> rfl
  rw [Statement, hop, Instr.wf]
  split <;> simp_all [Instr.length, Instr.operandBytes]

end Sys2Proof.Laws.Encodable
end

