-- ==== Sys2Proof/Laws/Step.lean ====
section
/-! SUPPORT. What fetching an instruction does: the PC moves past its bytes and nothing else changes
(spec/40_dispatch_addressing.md rule R111). -/

namespace Sys2Proof.Machine

/-- The fetched instruction's opcode is the byte at the PC and its length is the distance the PC moved; every other field is
as it was. -/
theorem State.fetchInstr_spec (s : State) :
    s.fetchInstr.1.opcode = some (s.read s.pc) ∧
    s.fetchInstr.2 = s.setPc (s.pc + BitVec.ofNat 16 s.fetchInstr.1.length) := by
  have h := descriptor_encodes (s.read s.pc)
  have h2 : s.pc + 1 + 1 = s.pc + BitVec.ofNat 16 2 := by rw [BitVec.add_assoc]; rfl
  have h3 : s.pc + 1 + 1 + 1 = s.pc + BitVec.ofNat 16 3 := by rw [BitVec.add_assoc, BitVec.add_assoc]; rfl
  simp only [State.fetchInstr, State.fetch8]
  cases hd : descriptor (s.read s.pc) with
  | illegal =>
    have hill : illegalBytes.contains (s.read s.pc) = true := by
      rw [hd] at h
      exact h
    exact ⟨by rw [Instr.opcode, if_pos hill], rfl⟩
  | one i =>
    rw [hd] at h
    exact ⟨h.1, by simp only [Instr.length, h.2]; rfl⟩
  | byte f =>
    rw [hd] at h
    refine ⟨(h _).1, ?_⟩
    simp only [Instr.length, (h _).2, State.setPc, h2]
    rfl
  | word f =>
    rw [hd] at h
    refine ⟨(h _).1, ?_⟩
    simp only [Instr.length, (h _).2, State.setPc, h3]
    rfl

/-- Bytes placed by the host keep memory's canonical form. -/
theorem State.writeBytes_wf {s : State} (h : Memory.wf s.mem) (a : Addr) (vs : List Byte) :
    Memory.wf (s.writeBytes a vs).mem := by
  induction vs generalizing s a with
  | nil => exact h
  | cons v rest ih => exact ih (State.write_wf h a v) (a + 1)

end Sys2Proof.Machine
end

