-- ==== Sys2Proof/Tests/Slice0.lean ====
section
/-! SUPPORT. The model's own tests. Every expected result is from the spec: the vector of spec/95_test_vectors.md, the rule
or the encoding table that the test's name or comment gives. -/

namespace Sys2Proof.Tests

open Sys2Proof.Machine

/-! ## A small state to test on -/

/-- The start of the vectors of spec/95_test_vectors.md: registers as after reset, code at 0x0200, memory 0x00, modern mode,
`ZP_PTR_WRAP = true`, the default policies, budget 0. -/
def bench : State where
  a := 0
  x := 0
  y := 0
  sp := 0xFF
  pc := 0x0200
  p := Flags.empty
  mem := []
  cfg := ⟨.modern, true, .nop, .binary⟩
  budget := 0

/-- The state with bytes of memory set. -/
def poke (s : State) : List (Addr × Byte) → State
  | [] => s
  | (a, v) :: rest => poke (s.write a v) rest

/-- One field of the state after one step on the given code, or none where the step stops. -/
def after {α : Type} (s : State) (code : List Byte) (look : State → α) : Option α :=
  match step (s.writeBytes s.pc code) with
  | .next t => some (look t)
  | .fault _ => none
  | .refused _ => none

/-- The fault of one step on the given code. -/
def stops (s : State) (code : List Byte) : Option Fault :=
  match step (s.writeBytes s.pc code) with
  | .fault f => some f
  | .next _ => none
  | .refused _ => none

/-- The legacy instance of the bench. -/
def legacy : State := { bench with cfg := { bench.cfg with mode := .legacy } }

/-- The bench with `ZP_PTR_WRAP = false`. -/
def noWrap : State := { bench with cfg := { bench.cfg with zpPtrWrap := false } }

/-- The bench with both policies at `fault`. -/
def strict : State := { bench with cfg := { bench.cfg with illegalPolicy := .fault, decimalPolicy := .fault } }

/-- Flags from a status byte. -/
def fl (b : Byte) : Flags := Flags.unpack b

/-! ## Well-formedness: an ill-formed term for each check of Instr.wf -/

theorem test_wf_refuses_read : (Instr.adc (.mem (.zpy 0)) : Instr).wf = false ∧ encode (.adc (.mem (.zpy 0))) = none := by decide

theorem test_wf_refuses_compareIndex : (Instr.cpx (.mem (.zpx 0)) : Instr).wf = false ∧ encode (.cpx (.mem (.zpx 0))) = none := by decide

theorem test_wf_refuses_bit : (Instr.bit (.zpx 0) : Instr).wf = false ∧ encode (.bit (.zpx 0)) = none := by decide

theorem test_wf_refuses_shift : (Instr.asl (.mem (.indx 0)) : Instr).wf = false ∧ encode (.asl (.mem (.indx 0))) = none := by decide

theorem test_wf_refuses_update : (Instr.inc (.zpy 0) : Instr).wf = false ∧ encode (.inc (.zpy 0)) = none := by decide

theorem test_wf_refuses_ldx : (Instr.ldx (.mem (.zpx 0)) : Instr).wf = false ∧ encode (.ldx (.mem (.zpx 0))) = none := by decide

theorem test_wf_refuses_ldy : (Instr.ldy (.mem (.zpy 0)) : Instr).wf = false ∧ encode (.ldy (.mem (.zpy 0))) = none := by decide

theorem test_wf_refuses_sta : (Instr.sta (.zpy 0) : Instr).wf = false ∧ encode (.sta (.zpy 0)) = none := by decide

theorem test_wf_refuses_stx : (Instr.stx (.absx 0) : Instr).wf = false ∧ encode (.stx (.absx 0)) = none := by decide

theorem test_wf_refuses_sty : (Instr.sty (.zpy 0) : Instr).wf = false ∧ encode (.sty (.zpy 0)) = none := by decide

theorem test_wf_refuses_illegal : (Instr.illegal 0xEA : Instr).wf = false ∧ encode (.illegal 0xEA) = none := by decide

/-! ## Decoding: words written out from rules R81, R84, R85, and from the bit patterns of the opcode table -/

theorem test_decode_alu_bits :
    (decode [0b01101001, 0x50]).instr? = some (.adc (.imm 0x50)) ∧
    (decode [0b11110001, 0x40]).instr? = some (.sbc (.mem (.indy 0x40))) ∧
    (decode [0b00111101, 0x34, 0x12]).instr? = some (.and (.mem (.absx 0x1234))) ∧
    (decode [0b00000001, 0x20]).instr? = some (.ora (.mem (.indx 0x20))) ∧
    (decode [0b01010101, 0x20]).instr? = some (.eor (.mem (.zpx 0x20))) ∧
    (decode [0b11011001, 0xFF, 0x20]).instr? = some (.cmp (.mem (.absy 0x20FF))) ∧
    (decode [0b11100100, 0x30]).instr? = some (.cpx (.mem (.zp 0x30))) ∧
    (decode [0b11001100, 0x00, 0x30]).instr? = some (.cpy (.mem (.abs 0x3000))) ∧
    (decode [0b00101100, 0x00, 0x30]).instr? = some (.bit (.abs 0x3000)) := by decide

theorem test_decode_shift_bits :
    (decode [0b00001010]).instr? = some (.asl .acc) ∧
    (decode [0b01000110, 0x10]).instr? = some (.lsr (.mem (.zp 0x10))) ∧
    (decode [0b00110110, 0x10]).instr? = some (.rol (.mem (.zpx 0x10))) ∧
    (decode [0b01111110, 0xF0, 0x12]).instr? = some (.ror (.mem (.absx 0x12F0))) ∧
    (decode [0b11101110, 0x34, 0x12]).instr? = some (.inc (.abs 0x1234)) ∧
    (decode [0b11000110, 0x10]).instr? = some (.dec (.zp 0x10)) ∧
    (decode [0b11101000]).instr? = some (.inx) ∧
    (decode [0b11001000]).instr? = some (.iny) ∧
    (decode [0b11001010]).instr? = some (.dex) ∧
    (decode [0b10001000]).instr? = some (.dey) := by decide

theorem test_decode_load_store_bits :
    (decode [0b10101001, 0x2A]).instr? = some (.lda (.imm 0x2A)) ∧
    (decode [0b10110110, 0x10]).instr? = some (.ldx (.mem (.zpy 0x10))) ∧
    (decode [0b10111100, 0x00, 0x12]).instr? = some (.ldy (.mem (.absx 0x1200))) ∧
    (decode [0b10010001, 0x40]).instr? = some (.sta (.indy 0x40)) ∧
    (decode [0b10010110, 0xFF]).instr? = some (.stx (.zpy 0xFF)) ∧
    (decode [0b10010100, 0x40]).instr? = some (.sty (.zpx 0x40)) ∧
    (decode [0b10101010]).instr? = some (.tax) ∧
    (decode [0b10101000]).instr? = some (.tay) ∧
    (decode [0b10001010]).instr? = some (.txa) ∧
    (decode [0b10011000]).instr? = some (.tya) ∧
    (decode [0b10111010]).instr? = some (.tsx) ∧
    (decode [0b10011010]).instr? = some (.txs) := by decide

theorem test_decode_stack_bits :
    (decode [0b01001000]).instr? = some (.pha) ∧
    (decode [0b00001000]).instr? = some (.php) ∧
    (decode [0b01101000]).instr? = some (.pla) ∧
    (decode [0b00101000]).instr? = some (.plp) := by decide

theorem test_decode_control_bits :
    (decode [0b01001100, 0x34, 0x12]).instr? = some (.jmpAbs 0x1234) ∧
    (decode [0b01101100, 0xFF, 0x10]).instr? = some (.jmpInd 0x10FF) ∧
    (decode [0b00100000, 0x40, 0x20]).instr? = some (.jsr 0x2040) ∧
    (decode [0b01100000]).instr? = some (.rts) ∧
    (decode [0b00010000, 0x02]).instr? = some (.bpl 0x02) ∧
    (decode [0b00110000, 0x02]).instr? = some (.bmi 0x02) ∧
    (decode [0b01010000, 0x80]).instr? = some (.bvc 0x80) ∧
    (decode [0b01110000, 0x00]).instr? = some (.bvs 0x00) ∧
    (decode [0b10010000, 0x20]).instr? = some (.bcc 0x20) ∧
    (decode [0b10110000, 0xFE]).instr? = some (.bcs 0xFE) ∧
    (decode [0b11010000, 0xFC]).instr? = some (.bne 0xFC) ∧
    (decode [0b11110000, 0x10]).instr? = some (.beq 0x10) := by decide

theorem test_decode_system_bits :
    (decode [0b00011000]).instr? = some (.clc) ∧
    (decode [0b00111000]).instr? = some (.sec) ∧
    (decode [0b01011000]).instr? = some (.cli) ∧
    (decode [0b01111000]).instr? = some (.sei) ∧
    (decode [0b11011000]).instr? = some (.cld) ∧
    (decode [0b11111000]).instr? = some (.sed) ∧
    (decode [0b10111000]).instr? = some (.clv) ∧
    (decode [0b11101010]).instr? = some (.nop) ∧
    (decode [0b00000000]).instr? = some (.brk) ∧
    (decode [0b01000000]).instr? = some (.rti) ∧
    (decode [0b00000010]).instr? = some (.illegal 0x02) ∧
    (decode [0b11111111]).instr? = some (.illegal 0xFF) := by decide

theorem test_decode_rejects_no_bytes : decode [] = .reject .noOpcodeByte := by decide

theorem test_decode_rejects_missing_operand : decode [0x4C, 0x34] = .reject (.operandMissing 0x4C) := by decide

theorem test_decodeTableWord_low_byte_first : decodeTableWord 24 0x12344C = some (.jmpAbs 0x1234) := by decide

theorem test_decodeTableWord_zeros_above : decodeTableWord 8 0x12344C = some (.jmpAbs 0x0000) := by decide

/-! ## Addressing modes (spec/40_dispatch_addressing.md; vectors VA) -/

theorem test_VA2_zpx_wraps : State.ea { bench with x := 0x20 } (.zpx 0xF0) = 0x0010 := by decide

theorem test_VA3_zpy : State.ea { bench with y := 0x05 } (.zpy 0x10) = 0x0015 := by decide

theorem test_VA7_absy_wraps : State.ea { bench with y := 0x02 } (.absy 0xFFFF) = 0x0001 := by decide

theorem test_VA9_indx_wraps : State.ea (poke { bench with x := 0x03 } [(0x0001, 0x00), (0x0002, 0x30)]) (.indx 0xFE) = 0x3000 := by decide

theorem test_VA11_indy : State.ea (poke { bench with y := 0x10 } [(0x0040, 0xF8), (0x0041, 0x30)]) (.indy 0x40) = 0x3108 := by decide

theorem test_VA12_pointer_wraps : State.ea (poke bench [(0x00FF, 0x00), (0x0000, 0x40), (0x0100, 0x50)]) (.indy 0xFF) = 0x4000 := by decide

theorem test_VA13_pointer_does_not_wrap : State.ea (poke noWrap [(0x00FF, 0x00), (0x0000, 0x40), (0x0100, 0x50)]) (.indy 0xFF) = 0x5000 := by decide

theorem test_VA15_indx_pointer_does_not_wrap : State.ea (poke noWrap [(0x00FF, 0x00), (0x0000, 0x40), (0x0100, 0x50)]) (.indx 0xFF) = 0x5000 := by decide

theorem test_VA5_cost : State.readCost { bench with x := 0x10 } (.mem (.absx 0x1200)) = 4 := by decide

theorem test_VA6_crossed_cost : State.readCost { bench with x := 0x20 } (.mem (.absx 0x12F0)) = 5 := by decide

theorem test_VA7_wrap_counts_as_crossing_cost : State.readCost { bench with y := 0x02 } (.mem (.absy 0xFFFF)) = 5 := by decide

theorem test_VA10_cost : State.readCost (poke { bench with y := 0x10 } [(0x0041, 0x30)]) (.mem (.indy 0x40)) = 5 := by decide

theorem test_VA11_crossed_cost : State.readCost (poke { bench with y := 0x10 } [(0x0040, 0xF8), (0x0041, 0x30)]) (.mem (.indy 0x40)) = 6 := by decide

/-! ## ALU (spec/41_alu.md; vectors VB) -/

theorem test_VB5_adc : after { bench with a := 0x80 } [0x69, 0x80] (fun t => (t.a, t.p.pack)) = some (0x00, 0x43) := by decide

theorem test_VB6f_adc_faults : stops { strict with a := 0x09, p := fl 0x08 } [0x69, 0x09] = some (.decimalUnsupported 0x69 0x0200) := by decide

theorem test_VB9_sbc : after { bench with a := 0x80, p := fl 0x01 } [0xE9, 0x01] (fun t => (t.a, t.p.pack)) = some (0x7F, 0x41) := by decide

theorem test_VB10_sbc_borrows : after { bench with a := 0x05 } [0xE9, 0x03] (fun t => (t.a, t.p.pack)) = some (0x01, 0x01) := by decide

theorem test_VB14_and_keeps_c_v : after { bench with a := 0xFF, p := fl 0x41 } [0x29, 0x80] (fun t => (t.a, t.p.pack)) = some (0x80, 0xC1) := by decide

theorem test_VH5_and_ignores_decimal_policy : after { strict with a := 0xFF, p := fl 0x08 } [0x29, 0x0F] (fun t => (t.a, t.p.pack)) = some (0x0F, 0x08) := by decide

theorem test_VB15_ora : after { bench with a := 0x80 } [0x09, 0x01] (fun t => (t.a, t.p.pack)) = some (0x81, 0x80) := by decide

theorem test_VB17_eor : after { bench with a := 0x0F } [0x49, 0xFF] (fun t => (t.a, t.p.pack)) = some (0xF0, 0x80) := by decide

theorem test_VB18_cmp : after { bench with a := 0x40 } [0xC9, 0x41] (fun t => (t.a, t.p.pack)) = some (0x40, 0x80) := by decide

theorem test_VA27_cmp_crossed : after (poke { bench with a := 0x05, y := 0xFF } [(0x0040, 0x01), (0x0041, 0x30), (0x3100, 0x05)]) [0xD1, 0x40] (fun t => (t.p.pack, t.budget)) = some (0x03, -6) := by decide

theorem test_VB22_cpx : after { bench with x := 0xFF } [0xE0, 0x00] (fun t => t.p.pack) = some 0x81 := by decide

theorem test_VB23_cpy : after (poke { bench with y := 0x10 } [(0x0030, 0x20)]) [0xC4, 0x30] (fun t => (t.p.pack, t.budget)) = some (0x80, -3) := by decide

theorem test_VB25_bit_clears : after (poke { bench with a := 0xFF, p := fl 0xC0 } [(0x3000, 0x3F)]) [0x2C, 0x00, 0x30] (fun t => t.p.pack) = some 0x00 := by decide

theorem test_VB26_bit_keeps_carry : after (poke { bench with p := fl 0x01 } [(0x0010, 0xFF)]) [0x24, 0x10] (fun t => t.p.pack) = some 0xC3 := by decide

/-! ## Shifts, rotates, increments, decrements (spec/42_shift_incdec.md; vectors VC) -/

theorem test_VC2_asl : after { bench with a := 0x41, p := fl 0x01 } [0x0A] (fun t => (t.a, t.p.pack)) = some (0x82, 0x80) := by decide

theorem test_VC17_asl_memory : after (poke bench [(0x3000, 0x81)]) [0x0E, 0x00, 0x30] (fun t => (t.read 0x3000, t.p.pack)) = some (0x02, 0x01) := by decide

theorem test_VC3_lsr : after { bench with a := 0x01, p := fl 0x80 } [0x4A] (fun t => (t.a, t.p.pack)) = some (0x00, 0x03) := by decide

theorem test_VC4_lsr_memory : after (poke bench [(0x0010, 0xFF)]) [0x46, 0x10] (fun t => (t.read 0x0010, t.p.pack)) = some (0x7F, 0x01) := by decide

theorem test_VC5_rol : after { bench with a := 0x80 } [0x2A] (fun t => (t.a, t.p.pack)) = some (0x00, 0x03) := by decide

theorem test_VC6_rol_carry_in : after { bench with a := 0x40, p := fl 0x01 } [0x2A] (fun t => (t.a, t.p.pack)) = some (0x81, 0x80) := by decide

theorem test_VC8_ror : after { bench with a := 0x02, p := fl 0x01 } [0x6A] (fun t => (t.a, t.p.pack)) = some (0x81, 0x80) := by decide

theorem test_VC9_ror_memory : after { bench with x := 0x20, p := fl 0x01 } [0x7E, 0xF0, 0x12] (fun t => (t.read 0x1310, t.budget)) = some (0x80, -7) := by decide

theorem test_VC10_inc_keeps_carry : after (poke { bench with p := fl 0x01 } [(0x0010, 0xFF)]) [0xE6, 0x10] (fun t => (t.read 0x0010, t.p.pack)) = some (0x00, 0x03) := by decide

theorem test_VA28_inc_absx : after (poke { bench with x := 0x01 } [(0x1201, 0x7F)]) [0xFE, 0x00, 0x12] (fun t => (t.read 0x1201, t.budget)) = some (0x80, -7) := by decide

theorem test_VC11_dec : after bench [0xC6, 0x10] (fun t => (t.read 0x0010, t.p.pack)) = some (0xFF, 0x80) := by decide

theorem test_VC12_dec_zpx : after (poke { bench with x := 0x01 } [(0x0011, 0x01)]) [0xD6, 0x10] (fun t => (t.read 0x0011, t.p.pack)) = some (0x00, 0x02) := by decide

theorem test_VC13_inx : after { bench with x := 0xFF } [0xE8] (fun t => (t.x, t.p.pack)) = some (0x00, 0x02) := by decide

theorem test_VC14_iny : after { bench with y := 0x7F } [0xC8] (fun t => (t.y, t.p.pack)) = some (0x80, 0x80) := by decide

theorem test_VC15_dex : after bench [0xCA] (fun t => (t.x, t.p.pack)) = some (0xFF, 0x80) := by decide

theorem test_VC16_dey : after { bench with y := 0x01, p := fl 0x01 } [0x88] (fun t => (t.y, t.p.pack)) = some (0x00, 0x03) := by decide

/-! ## Loads, stores, transfers (spec/43_load_store_transfer.md; vectors VD) -/

theorem test_VS7_lda_from_reset : after { State.reset with budget := 2 } [0xA9, 0x2A] (fun t => (t.a, t.pc, t.p.pack, t.budget)) = some (0x2A, 0xFFFE, 0x00, 0) := by decide

theorem test_VA20_lda_operand_wraps : after { bench with pc := 0xFFFF } [0xA9, 0x44] (fun t => (t.a, t.pc)) = some (0x44, 0x0001) := by decide

theorem test_VD3_ldx_crossed : after { bench with y := 0x01, x := 0x55 } [0xBE, 0xFF, 0x12] (fun t => (t.x, t.p.pack, t.budget)) = some (0x00, 0x02, -5) := by decide

theorem test_VD5_ldy_wraps : after (poke { bench with x := 0x90 } [(0x0010, 0x01)]) [0xB4, 0x80] (fun t => (t.y, t.p.pack)) = some (0x01, 0x00) := by decide

theorem test_VD6_sta_sets_no_flag : after (poke { bench with p := fl 0x81 } [(0x0010, 0x77)]) [0x85, 0x10] (fun t => (t.read 0x0010, t.p.pack)) = some (0x00, 0x81) := by decide

theorem test_VA17_sta_indy : after (poke { bench with a := 0x77, y := 0x01 } [(0x0041, 0x30)]) [0x91, 0x40] (fun t => (t.read 0x3001, t.budget)) = some (0x77, -6) := by decide

theorem test_VD7_stx_wraps : after { bench with x := 0xAB, y := 0x02 } [0x96, 0xFF] (fun t => (t.read 0x0001, t.read 0x0101)) = some (0xAB, 0x00) := by decide

theorem test_VD8_sty : after { bench with y := 0x80 } [0x8C, 0x00, 0x30] (fun t => (t.read 0x3000, t.p.pack)) = some (0x80, 0x00) := by decide

theorem test_VD10_tax : after { bench with x := 0x12 } [0xAA] (fun t => (t.x, t.p.pack)) = some (0x00, 0x02) := by decide

theorem test_VD11_tay : after { bench with a := 0x80 } [0xA8] (fun t => (t.y, t.p.pack)) = some (0x80, 0x80) := by decide

theorem test_VD12_txa : after { bench with x := 0x7F, a := 0xFF, p := fl 0x80 } [0x8A] (fun t => (t.a, t.p.pack)) = some (0x7F, 0x00) := by decide

theorem test_VD13_tya : after { bench with a := 0x01 } [0x98] (fun t => (t.a, t.p.pack)) = some (0x00, 0x02) := by decide

theorem test_VD14_tsx : after bench [0xBA] (fun t => (t.x, t.p.pack)) = some (0xFF, 0x80) := by decide

theorem test_VD15_txs_sets_no_flag : after { bench with p := fl 0x80 } [0x9A] (fun t => (t.sp, t.p.pack)) = some (0x00, 0x80) := by decide

/-! ## Stack (spec/44_stack.md; vectors VE) -/

theorem test_VE1_pha : after { bench with a := 0x42 } [0x48] (fun t => (t.read 0x01FF, t.sp)) = some (0x42, 0x00) := by decide

theorem test_VE5_php : after { bench with p := fl 0xC9 } [0x08] (fun t => (t.read 0x01FF, t.sp)) = some (0xC9, 0x00) := by decide

theorem test_VE3_pla : after (poke { bench with sp := 0x00 } [(0x01FF, 0x80)]) [0x68] (fun t => (t.a, t.sp, t.p.pack)) = some (0x80, 0xFF, 0x80) := by decide

theorem test_VE6_plp : after (poke { bench with sp := 0x01 } [(0x0100, 0xFF)]) [0x28] (fun t => (t.sp, t.p.pack)) = some (0x00, 0xDF) := by decide

/-! ## Control transfer (spec/45_control_flow.md; vectors VF) -/

theorem test_VF1_jmp : after bench [0x4C, 0x34, 0x12] (fun t => (t.pc, t.budget)) = some (0x1234, -3) := by decide

theorem test_VA21_jmp_indirect_modern : after (poke bench [(0xFFFF, 0x34), (0x0000, 0x12), (0xFF00, 0x56)]) [0x6C, 0xFF, 0xFF] (fun t => (t.pc, t.budget)) = some (0x1234, -5) := by decide

theorem test_VA22_jmp_indirect_legacy : after (poke legacy [(0xFFFF, 0x34), (0x0000, 0x12), (0xFF00, 0x56)]) [0x6C, 0xFF, 0xFF] (fun t => (t.pc, t.budget)) = some (0x5634, -5) := by decide

theorem test_VF3_jsr : after { bench with pc := 0x0600 } [0x20, 0x40, 0x20] (fun t => (t.read 0x01FF, t.read 0x0100, t.sp, t.pc)) = some (0x02, 0x06, 0x01, 0x2040) := by decide

theorem test_VF6_jsr_at_the_top : after { bench with pc := 0xFFFD } [0x20, 0x00, 0x30] (fun t => (t.read 0x01FF, t.read 0x0100, t.sp, t.pc)) = some (0xFF, 0xFF, 0x01, 0x3000) := by decide

theorem test_VF5_rts_wraps : after (poke { bench with sp := 0x02 } [(0x0100, 0xFF), (0x0101, 0xFF)]) [0x60] (fun t => (t.pc, t.sp)) = some (0x0000, 0x00) := by decide

theorem test_VF7_bpl_taken : after { bench with pc := 0x0300 } [0x10, 0x02] (fun t => (t.pc, t.budget)) = some (0x0304, -3) := by decide

theorem test_VF10_bmi_not_taken : after { bench with pc := 0x0300 } [0x30, 0x02] (fun t => (t.pc, t.budget)) = some (0x0302, -2) := by decide

theorem test_VF11_bvc_back_crossed : after { bench with pc := 0x0300 } [0x50, 0x80] (fun t => (t.pc, t.budget)) = some (0x0282, -4) := by decide

theorem test_VF13_bvs_offset_zero : after { bench with pc := 0x0300, p := fl 0x40 } [0x70, 0x00] (fun t => (t.pc, t.budget)) = some (0x0302, -3) := by decide

theorem test_VF26_bcc_crossed : after { bench with pc := 0x02FD } [0x90, 0x01] (fun t => (t.pc, t.budget)) = some (0x0300, -4) := by decide

theorem test_VF17_bcs_to_itself : after { bench with pc := 0x0300, p := fl 0x01 } [0xB0, 0xFE] (fun t => (t.pc, t.budget)) = some (0x0300, -3) := by decide

theorem test_VF24_bne_furthest : after { bench with pc := 0x0300 } [0xD0, 0x7F] (fun t => (t.pc, t.budget)) = some (0x0381, -3) := by decide

theorem test_VF23_beq_pc_wraps : after { bench with pc := 0xFFFE, p := fl 0x02 } [0xF0, 0x02] (fun t => (t.pc, t.budget)) = some (0x0002, -3) := by decide

/-! ## Flags, NOP, BRK, RTI (spec/46_flags_system.md; vectors VG) -/

theorem test_VG1_clc : after { bench with p := fl 0x01 } [0x18] (fun t => (t.p.pack, t.budget)) = some (0x00, -2) := by decide

theorem test_VG2_sec : after { bench with p := fl 0x00 } [0x38] (fun t => (t.p.pack, t.budget)) = some (0x01, -2) := by decide

theorem test_VG3_cli : after { bench with p := fl 0x04 } [0x58] (fun t => (t.p.pack, t.budget)) = some (0x00, -2) := by decide

theorem test_VG4_sei : after { bench with p := fl 0x00 } [0x78] (fun t => (t.p.pack, t.budget)) = some (0x04, -2) := by decide

theorem test_VG5_cld : after { bench with p := fl 0x08 } [0xD8] (fun t => (t.p.pack, t.budget)) = some (0x00, -2) := by decide

theorem test_VG6_sed : after { bench with p := fl 0x00 } [0xF8] (fun t => (t.p.pack, t.budget)) = some (0x08, -2) := by decide

theorem test_VG7_clv : after { bench with p := fl 0x40 } [0xB8] (fun t => (t.p.pack, t.budget)) = some (0x00, -2) := by decide

theorem test_VG8_nop : after { bench with a := 0x11, p := fl 0x83 } [0xEA] (fun t => (t.pc, t.a, t.p.pack)) = some (0x0201, 0x11, 0x83) := by decide

theorem test_VG10_brk : after (poke { bench with sp := 0x10, p := fl 0x85 } [(0xFFFF, 0x80)]) [0x00] (fun t => (t.read 0x0110, t.read 0x0111, t.read 0x0112, t.sp, t.pc, t.p.pack)) = some (0x01, 0x02, 0x85, 0x13, 0x8000, 0x95) := by decide

theorem test_VG14_brk_at_the_top : after { bench with pc := 0xFFFF } [0x00] (fun t => (t.read 0x01FF, t.read 0x0100, t.sp, t.pc, t.p.pack)) = some (0x00, 0x00, 0x02, 0x0000, 0x10) := by decide

theorem test_VG13_rti_clears_b : after (poke { bench with sp := 0x03 } [(0x0102, 0xFF), (0x0101, 0x12), (0x0100, 0x34)]) [0x40] (fun t => (t.pc, t.sp, t.p.pack)) = some (0x1234, 0x00, 0xCF) := by decide

/-! ## Illegal bytes and reset (vectors VA18, VH1, VR) -/

theorem test_VA19_illegal_is_a_no_op : after { bench with a := 0x12, p := fl 0x01 } [0xFF] (fun t => (t.pc, t.a, t.p.pack, t.budget)) = some (0x0201, 0x12, 0x01, -1) := by decide

theorem test_VH1_illegal_faults : stops strict [0x02] = some (.illegalOpcode 0x02 0x0200) := by decide

theorem test_VR1_reset : (State.reset.pc, State.reset.sp, State.reset.p.pack, State.reset.cfg.mode) = (0xFFFC, 0xFF, 0x00, .modern) := by decide

theorem test_VR2_reset_keeps_legacy : (State.hostReset { legacy with a := 0x55 }).cfg.mode = .legacy ∧ (State.hostReset { legacy with a := 0x55 }).a = 0x00 := by decide

theorem test_VR3_no_vector_fetch : after State.reset [0x4C, 0x00, 0x02] (fun t => (t.pc, t.budget)) = some (0x0200, -3) := by decide

theorem test_VA30_budget_below_zero : after { State.reset with budget := -5 } [0xA9, 0x2A] (fun t => (t.a, t.budget)) = some (0x2A, -7) := by decide

/-! ## Witnesses: a state and operands that meet each statement's hypotheses, for each clause at a boundary value. `codeAt p code`
is the bench with its PC at `p` and the code there. -/

/-- The bench with code at an address. -/
def codeAt (pc : Addr) (code : List Byte) : State := { bench with pc := pc }.writeBytes pc code

theorem witness_DecodeOfEncodeIsTheInstruction : (Instr.ror (.mem (.absx 0xFFFF)) : Instr).wf = true ∧ (Instr.illegal 0xFF : Instr).wf = true := by decide

theorem witness_DecodedBytesAreTheEncoding : decode [0x6C, 0xFF, 0xFF, 0x00] = .ok (.jmpInd 0xFFFF) [0x00] := by decide

theorem witness_EveryOpcodeByteDecodes : (0xFF : Byte) ∈ illegalBytes ∧ (0x02 : Byte) ∈ illegalBytes ∧ (0x00 : Byte) ∉ illegalBytes ∧ (0xFE : Byte) ∉ illegalBytes := by decide

theorem witness_StepRunsTheDecodedInstruction : decode (codeAt 0xFFFF [0x4C, 0x34, 0x12]).codeBytes = .ok (.jmpAbs 0x1234) [] := by decide

theorem witness_PcAdvancesByTheLength : decode (codeAt 0xFFFF [0xA9, 0x2A]).codeBytes = .ok (.lda (.imm 0x2A)) [0x00] ∧ (Instr.lda (.imm 0x2A)).writesPc = false ∧ ∃ t, step (codeAt 0xFFFF [0xA9, 0x2A]) = .next t := ⟨by decide, rfl, _, rfl⟩

theorem witness_DefaultPoliciesAlwaysStep : bench.defaultPolicies ∧ State.reset.defaultPolicies := by decide

theorem witness_OnlyTheTwoFaultsStop : stops { strict with pc := 0xFFFF } [0xFF] = some (.illegalOpcode 0xFF 0xFFFF) ∧ stops { strict with pc := 0xFFFF, p := fl 0x08 } [0x69, 0x01] = some (.decimalUnsupported 0x69 0xFFFF) := by decide

theorem witness_StepKeepsTheInvariant : (codeAt 0xFFFF [0x48]).Inv ∧ ∃ t, step (codeAt 0xFFFF [0x48]) = .next t := ⟨by decide, _, rfl⟩

theorem witness_OperatingModeAffectsOnlyIndirectJump : ∀ ptr rest, decode (codeAt 0x0200 [0x6C, 0xFE, 0xFF]).codeBytes = .ok (.jmpInd ptr) rest → loByte ptr ≠ 0xFF := by
  intro ptr rest h
  have h' : decode (codeAt 0x0200 [0x6C, 0xFE, 0xFF]).codeBytes = .ok (.jmpInd 0xFFFE) [] := by decide
  rw [h'] at h
  injection h with h₁
  injection h₁ with h₂
  subst h₂
  decide

theorem witness_FlagsChangeOnlyByTheirWriters : (∃ t, exec (.lda (.imm 0x00)) bench = .next t) ∧ (∀ f ∈ [FlagName.c, .i, .d, .b, .v], (Instr.lda (.imm 0x00)).writesFlag f = false) ∧ (∃ t, exec .txs bench = .next t) ∧ ∀ f ∈ [FlagName.z, .n], Instr.txs.writesFlag f = false := ⟨⟨_, rfl⟩, by decide, ⟨_, rfl⟩, by decide⟩

theorem witness_RegistersChangeOnlyByTheirWriters : (∃ t, exec (.sta (.zp 0xFF)) bench = .next t) ∧ (∀ r ∈ [Reg.a, .x, .y], (Instr.sta (.zp 0xFF)).writesReg r = false) ∧ (Instr.sta (.zp 0xFF)).writesSp = false ∧ (Instr.sta (.zp 0xFF)).writesPc = false := ⟨⟨_, rfl⟩, by decide, rfl, rfl⟩

theorem witness_MemoryChangesOnlyAtStoreAddresses : (∃ t, exec .brk { bench with sp := 0xFE } = .next t) ∧ 0x0200 ∉ Instr.brk.storeAddrs { bench with sp := 0xFE } ∧ 0x0101 ∉ Instr.brk.storeAddrs { bench with sp := 0xFE } ∧ (∃ t, exec (.cmp (.mem (.zp 0xFF))) bench = .next t) ∧ 0x00FF ∉ (Instr.cmp (.mem (.zp 0xFF))).storeAddrs bench := ⟨⟨_, rfl⟩, by decide, by decide, ⟨_, rfl⟩, by decide⟩

theorem witness_RegisterWritesSetZeroAndNegative : (∃ t, exec (.lda (.imm 0x80)) bench = .next t) ∧ (Instr.lda (.imm 0x80)).writesReg .a = true ∧ (∃ t, exec .tsx bench = .next t) ∧ Instr.tsx.writesReg .x = true ∧ (∃ t, exec .dey bench = .next t) ∧ Instr.dey.writesReg .y = true ∧ ∃ t, exec (.ror (.mem (.absx 0xFFFF))) bench = .next t := ⟨⟨_, rfl⟩, rfl, ⟨_, rfl⟩, rfl, ⟨_, rfl⟩, rfl, _, rfl⟩

/-- The pointer 0x00FF, where the two clauses read different bytes. -/
theorem witness_ZeroPagePointerRead : (poke bench [(0x0000, 0x12), (0x0100, 0x34)]).cfg.zpPtrWrap = true ∧ hiByte ((poke bench [(0x0000, 0x12), (0x0100, 0x34)]).readZpPtr 0xFF) = 0x12 ∧ (poke noWrap [(0x0000, 0x12), (0x0100, 0x34)]).cfg.zpPtrWrap = false ∧ hiByte ((poke noWrap [(0x0000, 0x12), (0x0100, 0x34)]).readZpPtr 0xFF) = 0x34 := by decide

/-- The first clause by each of its alternatives, and the second. -/
theorem witness_AdcAddsWithCarry : (bench.cfg.decimalPolicy = .binary ∧ strict.p.d = false) ∧ { strict with p := fl 0x08 }.cfg.decimalPolicy = .fault ∧ { strict with p := fl 0x08 }.p.d = true := by decide

theorem witness_SbcIsAdcOfTheComplement : (bench.cfg.decimalPolicy = .binary ∧ strict.p.d = false) ∧ { strict with p := fl 0x08 }.cfg.decimalPolicy = .fault ∧ { strict with p := fl 0x08 }.p.d = true := by decide

theorem witness_DecimalFaultRecordsTheOpcode : Instr.opcode (.adc (.imm 0x01)) = some 0x69 ∧ Instr.opcode (.sbc (.mem (.indy 0xFF))) = some 0xF1 ∧ { strict with p := fl 0x08 }.cfg.decimalPolicy = .fault ∧ { strict with p := fl 0x08 }.p.d = true := by decide

/-- The two values of a conditional cost, at the page's edge. -/
theorem witness_PageCrossingExtra : { bench with x := 0x0F }.readCost (.mem (.absx 0x12F0)) = 4 ∧ { bench with x := 0x10 }.readCost (.mem (.absx 0x12F0)) = 5 ∧ { bench with y := 0x01 }.readCost (.mem (.absy 0xFFFF)) = 5 ∧ (poke { bench with y := 0x01 } [(0x0040, 0xFF), (0x0041, 0x12)]).readCost (.mem (.indy 0x40)) = 6 := by decide

theorem witness_OverflowIsSignedOverflow : { bench with a := 0x80 }.cfg.decimalPolicy = .binary ∨ { bench with a := 0x80 }.p.d = false := by decide

theorem witness_CompareAgreesWithSbc : { strict with a := 0x80 }.cfg.decimalPolicy = .binary ∨ { strict with a := 0x80 }.p.d = false := by decide

theorem witness_DispatchReturnsTheRemainingBudget : { bench with pc := 0xFFFF }.defaultPolicies := by decide

theorem witness_StepKeepsTheConfiguration : ∃ t, step (codeAt 0xFFFF [0x28]) = .next t := ⟨_, rfl⟩

/-- The round trips with nothing between: at the top of the stack page, where SP wraps. -/
theorem witness_PushPullRoundTrips : (∃ t t' : State, exec .pha bench = .next t ∧ t'.sp = t.sp ∧ t'.read (0x0100 + zext16 bench.sp) = t.read (0x0100 + zext16 bench.sp)) ∧ ∃ t t' : State, exec .php bench = .next t ∧ t'.sp = t.sp ∧ t'.read (0x0100 + zext16 bench.sp) = t.read (0x0100 + zext16 bench.sp) := ⟨⟨_, _, rfl, rfl, rfl⟩, _, _, rfl, rfl, rfl⟩

theorem witness_SubroutineRoundTrip : ∃ t t' : State, exec (.jsr 0x3000) bench = .next t ∧ t'.sp = t.sp ∧ t'.read (0x0100 + zext16 bench.sp) = t.read (0x0100 + zext16 bench.sp) ∧ t'.read (0x0100 + zext16 (bench.sp + 1)) = t.read (0x0100 + zext16 (bench.sp + 1)) := ⟨_, _, rfl, rfl, rfl, rfl⟩

theorem witness_BreakRoundTrip : ∃ t t' : State, exec .brk bench = .next t ∧ t'.sp = t.sp ∧ ∀ k ∈ [bench.sp, bench.sp + 1, bench.sp + 2], t'.read (0x0100 + zext16 k) = t.read (0x0100 + zext16 k) := ⟨_, _, rfl, rfl, fun _ _ => rfl⟩

theorem witness_JumpsSetThePc : legacy.cfg.mode = .legacy ∧ loByte 0x10FF = 0xFF ∧ bench.cfg.mode = .modern ∧ loByte 0x10FE ≠ 0xFF := by decide

theorem witness_BranchesTestOneFlag : (bench.p.n ≠ true ∧ bench.p.n = false) ∧ (bench.p.v ≠ true ∧ bench.p.v = false) ∧ (bench.p.c ≠ true ∧ bench.p.c = false) ∧ bench.p.z ≠ true ∧ bench.p.z = false := by decide

theorem witness_IllegalBytesFollowTheirPolicy : bench.cfg.illegalPolicy = .nop ∧ strict.cfg.illegalPolicy = .fault := by decide

end Sys2Proof.Tests
end

section
/-! SUPPORT. The status as a record of named flags, its packed byte bit by bit, and what `exec` can do to the flags, said
once for every instruction (spec/10_state.md rules R26, R29 to R31). -/

namespace Sys2Proof.Machine

/-! ## Writing flags by name -/

/-- The status with one flag written. -/
def Flags.set (p : Flags) (f : FlagName) (b : Bool) : Flags :=
  match f with
  | .c => { p with c := b }
  | .z => { p with z := b }
  | .i => { p with i := b }
  | .d => { p with d := b }
  | .b => { p with b := b }
  | .v => { p with v := b }
  | .n => { p with n := b }

theorem Flags.flag_set (p : Flags) (f g : FlagName) (b : Bool) :
    (p.set f b).flag g = if g = f then b else p.flag g := by
  cases f <;> cases g <;> rfl

/-- The status after flags are written one after another. -/
def Flags.setAll (p : Flags) : List (FlagName × Bool) → Flags
  | [] => p
  | (f, b) :: rest => (p.set f b).setAll rest

theorem Flags.flag_setAll_of_notMem {p : Flags} {ws : List (FlagName × Bool)} {g : FlagName} (h : g ∉ ws.map Prod.fst) :
    (p.setAll ws).flag g = p.flag g := by
  induction ws generalizing p with
  | nil => rfl
  | cons w rest ih =>
    rw [List.map_cons, List.mem_cons, not_or] at h
    rw [Flags.setAll, ih h.2, Flags.flag_set, if_neg h.1]

theorem Flags.setZN_eq_setAll (p : Flags) (v : Byte) : p.setZN v = p.setAll [(.z, v == 0), (.n, v.getLsbD 7)] := rfl

theorem Flags.carry_setZN_eq_setAll (p : Flags) (c : Bool) (v : Byte) :
    Flags.setZN { p with c := c } v = p.setAll [(.c, c), (.z, v == 0), (.n, v.getLsbD 7)] := rfl

theorem Flags.afterAdc_eq_setAll (p : Flags) (a m : Byte) :
    p.afterAdc a m = p.setAll [(.c, (p.afterAdc a m).c), (.v, (p.afterAdc a m).v), (.z, (p.afterAdc a m).z),
      (.n, (p.afterAdc a m).n)] := rfl

theorem Flags.afterCompare_eq_setAll (p : Flags) (reg m : Byte) :
    p.afterCompare reg m = p.setAll [(.c, decide (m.toNat ≤ reg.toNat)), (.z, reg == m), (.n, (reg - m).getLsbD 7)] := rfl

theorem Flags.afterBit_eq_setAll (p : Flags) (a m : Byte) :
    p.afterBit a m = p.setAll [(.n, m.getLsbD 7), (.v, m.getLsbD 6), (.z, (a &&& m) == 0)] := rfl

/-- Any status is any other with all seven flags written. -/
theorem Flags.eq_setAll (p q : Flags) :
    q = p.setAll [(.c, q.c), (.z, q.z), (.i, q.i), (.d, q.d), (.b, q.b), (.v, q.v), (.n, q.n)] := rfl

/-! ## What an instruction can do to the flags -/

/-- ADC and SBC, where they complete, leave the sum and its flags. -/
theorem eq_of_addWithCarry_eq_next {i : Instr} {o : Operand} {m : Byte} {s t : State}
    (h : addWithCarry i o m s = .next t) :
    t = { s with a := adcResult s.a m s.p.c, p := s.p.afterAdc s.a m, budget := s.budget - s.readCost o } := by
  rcases addWithCarry_cases i o m s with ⟨-, hf⟩ | ⟨-, hn⟩
  · exact absurd (hf.symm.trans h) nofun
  · cases hn.symm.trans h
    rfl

/-- Every instruction that completes leaves the status as it was but for flags that rule R26 lists it as writing. -/
theorem exec_flags {i : Instr} {s t : State} (h : exec i s = .next t) :
    ∃ ws : List (FlagName × Bool), t.p = s.p.setAll ws ∧ (ws.map Prod.fst).all i.writesFlag = true := by
  cases i
  case adc o | sbc o =>
    all_goals
      cases eq_of_addWithCarry_eq_next h
      exact ⟨_, Flags.afterAdc_eq_setAll s.p _ _, rfl⟩
  case and o | ora o | eor o | lda o | ldx o | ldy o | inc m | dec m =>
    all_goals
      cases h
      exact ⟨_, Flags.setZN_eq_setAll s.p _, rfl⟩
  case inx | iny | dex | dey | tax | tay | txa | tya | tsx | pla =>
    all_goals
      cases h
      exact ⟨_, Flags.setZN_eq_setAll s.p _, rfl⟩
  case cmp o | cpx o | cpy o =>
    all_goals
      cases h
      exact ⟨_, Flags.afterCompare_eq_setAll s.p _ _, rfl⟩
  case bit m =>
    cases h
    exact ⟨_, Flags.afterBit_eq_setAll s.p _ _, rfl⟩
  case asl u | lsr u | rol u | ror u =>
    all_goals cases u <;> cases h <;> exact ⟨_, Flags.carry_setZN_eq_setAll s.p _ _, rfl⟩
  case clc | sec =>
    all_goals
      cases h
      exact ⟨[(.c, _)], rfl, rfl⟩
  case cli | sei =>
    all_goals
      cases h
      exact ⟨[(.i, _)], rfl, rfl⟩
  case cld | sed =>
    all_goals
      cases h
      exact ⟨[(.d, _)], rfl, rfl⟩
  case clv =>
    cases h
    exact ⟨[(.v, false)], rfl, rfl⟩
  case brk =>
    cases h
    exact ⟨[(.b, true)], rfl, rfl⟩
  case plp | rti => all_goals exact ⟨_, Flags.eq_setAll s.p t.p, rfl⟩
  case bpl r | bmi r | bvc r | bvs r | bcc r | bcs r | bne r | beq r =>
    all_goals
      cases (branch_eq _ _ s).symm.trans h
      exact ⟨[], rfl, rfl⟩
  case illegal op =>
    rw [exec, execIllegal] at h
    split at h <;> cases h
    exact ⟨[], rfl, rfl⟩
  all_goals
    cases h
    exact ⟨[], rfl, rfl⟩

/-- Settles O15: the flags an instruction writes are all on its list, so a flag that is not on it keeps its value. -/
theorem flagsChangeOnlyByTheirWriters : Obligations.FlagsChangeOnlyByTheirWriters := by
  intro i s t f h hw
  obtain ⟨ws, hp, hws⟩ := exec_flags h
  have hf : f ∉ ws.map Prod.fst := fun hm => by simp [List.all_eq_true.1 hws f hm] at hw
  rw [hp, Flags.flag_setAll_of_notMem hf]

/-! ## Z and N after a write (rule R30) -/

/-- A status that `SetZN(v)` left has Z and N of `v`. -/
theorem Flags.zn_of_eq_setZN {p q : Flags} {v : Byte} (h : p = q.setZN v) : p.z = (v == 0) ∧ p.n = v.getLsbD 7 :=
  h ▸ ⟨Flags.setZN_z q v, Flags.setZN_n q v⟩

/-- Every write of A, X or Y ends in `SetZN` of the byte that the register then holds. -/
theorem exec_setZN_of_writesReg {i : Instr} {s t : State} {r : Reg} (h : exec i s = .next t) (hw : i.writesReg r = true) :
    ∃ q : Flags, t.p = q.setZN (t.reg r) := by
  cases i
  case adc o | sbc o =>
    all_goals
      cases r <;> cases hw
      cases eq_of_addWithCarry_eq_next h
      exact ⟨_, rfl⟩
  case and o | ora o | eor o | lda o | ldx o | ldy o =>
    all_goals
      cases r <;> cases hw
      cases h
      exact ⟨s.p, rfl⟩
  case inx | iny | dex | dey | tax | tay | txa | tya | tsx | pla =>
    all_goals
      cases r <;> cases hw
      cases h
      exact ⟨s.p, rfl⟩
  case asl u | lsr u | rol u | ror u =>
    all_goals
      cases r <;> cases u <;> cases hw
      cases h
      exact ⟨_, rfl⟩
  all_goals cases r <;> cases hw

/-- `SetZN` of a byte just written to memory is `SetZN` of the byte then read there. -/
theorem State.setZN_read_of_write {s t : State} {q : Flags} {a : Addr} {v : Byte} (hm : t.mem = (s.write a v).mem)
    (hp : t.p = q.setZN v) : t.p = q.setZN (t.read a) := by
  rw [hp, State.read_congr hm, State.read_write, if_pos rfl]

/-- A shift or rotate of memory ends in `SetZN` of the byte it leaves at the effective address. -/
theorem shift_mem_setZN {f : Bool → Byte → Byte × Bool} {m : MemMode} {s t : State} (h : shift f (.mem m) s = .next t) :
    ∃ q : Flags, t.p = q.setZN (t.read (s.ea m)) := by
  cases (shift_mem_eq f m s).symm.trans h
  exact ⟨_, State.setZN_read_of_write rfl rfl⟩

/-- An increment or decrement of memory ends in `SetZN` of the byte it leaves at the effective address. -/
theorem update_setZN {f : Byte → Byte} {m : MemMode} {s t : State} (h : update f m s = .next t) :
    ∃ q : Flags, t.p = q.setZN (t.read (s.ea m)) := by
  cases (update_eq f m s).symm.trans h
  exact ⟨s.p, State.setZN_read_of_write rfl rfl⟩

/-- Settles O18: the status is left by `SetZN` of the byte written, in the register or at the effective address. -/
theorem registerWritesSetZeroAndNegative : Obligations.RegisterWritesSetZeroAndNegative := by
  refine ⟨fun i s t r h hw => ?_, fun m s t i hi h => ?_⟩
  · obtain ⟨q, hq⟩ := exec_setZN_of_writesReg h hw
    exact Flags.zn_of_eq_setZN hq
  · have hq : ∃ q : Flags, t.p = q.setZN (t.read (s.ea m)) := by
      simp only [List.mem_cons, List.not_mem_nil, or_false] at hi
      rcases hi with rfl | rfl | rfl | rfl | rfl | rfl
      exacts [shift_mem_setZN h, shift_mem_setZN h, shift_mem_setZN h, shift_mem_setZN h, update_setZN h, update_setZN h]
    obtain ⟨q, hq⟩ := hq
    exact Flags.zn_of_eq_setZN hq

/-! ## The status byte, bit by bit (rule R31) -/

theorem Flags.pack_bit7 (p : Flags) : p.pack.getLsbD 7 = p.n := by simp [Flags.pack]
theorem Flags.pack_bit6 (p : Flags) : p.pack.getLsbD 6 = p.v := by simp [Flags.pack]
theorem Flags.pack_bit5 (p : Flags) : p.pack.getLsbD 5 = false := by simp [Flags.pack]
theorem Flags.pack_bit4 (p : Flags) : p.pack.getLsbD 4 = p.b := by simp [Flags.pack]
theorem Flags.pack_bit3 (p : Flags) : p.pack.getLsbD 3 = p.d := by simp [Flags.pack]
theorem Flags.pack_bit2 (p : Flags) : p.pack.getLsbD 2 = p.i := by simp [Flags.pack]
theorem Flags.pack_bit1 (p : Flags) : p.pack.getLsbD 1 = p.z := by simp [Flags.pack]
theorem Flags.pack_bit0 (p : Flags) : p.pack.getLsbD 0 = p.c := by simp [Flags.pack]

theorem bitNat_getLsbD (b : Byte) (k : Nat) : bitNat (b.getLsbD k) = b.toNat / 2 ^ k % 2 := by
  rw [← Nat.toNat_testBit, BitVec.testBit_toNat]
  cases b.getLsbD k <;> rfl

/-- A byte is the sum of its bits, each at its weight. -/
theorem toNat_eq_sum_bits (b : Byte) :
    b.toNat = 128 * bitNat (b.getLsbD 7) + 64 * bitNat (b.getLsbD 6) + 32 * bitNat (b.getLsbD 5) +
      16 * bitNat (b.getLsbD 4) + 8 * bitNat (b.getLsbD 3) + 4 * bitNat (b.getLsbD 2) + 2 * bitNat (b.getLsbD 1) +
      bitNat (b.getLsbD 0) := by
  have := b.isLt
  simp only [bitNat_getLsbD]
  omega

/-- Settles O19: the packed byte is the sum of its bits, and each bit but bit 5 is the flag packed there. -/
theorem statusBytePacking : Obligations.StatusBytePacking := by
  refine fun p => ⟨p.pack_bit5, ?_⟩
  rw [toNat_eq_sum_bits, p.pack_bit7, p.pack_bit6, p.pack_bit5, p.pack_bit4, p.pack_bit3, p.pack_bit2, p.pack_bit1,
    p.pack_bit0]
  rfl

end Sys2Proof.Machine
end

section
/-! An illegal byte under each value of `ILLEGAL_POLICY` (spec/30_encoding.md rule R88). -/

namespace Sys2Proof.Machine

theorem exec_illegal_of_nop {s : State} (op : Byte) (h : s.cfg.illegalPolicy = .nop) :
    exec (.illegal op) s = .next (s.spend 1) := by
  rw [exec, execIllegal, h]

theorem exec_illegal_of_fault {s : State} (op : Byte) (h : s.cfg.illegalPolicy = .fault) :
    exec (.illegal op) s = .fault (.illegalOpcode op (s.pc - 1)) := by
  rw [exec, execIllegal, h]

/-- Settles O49: an illegal byte has no operand byte, and each policy has its own outcome. -/
theorem illegalBytesFollowTheirPolicy : Obligations.IllegalBytesFollowTheirPolicy :=
  fun _ op => ⟨rfl, exec_illegal_of_nop op, exec_illegal_of_fault op⟩

end Sys2Proof.Machine
end

section
/-! The zero-page pointer read under each value of `ZP_PTR_WRAP` (spec/40_dispatch_addressing.md rule R123). -/

namespace Sys2Proof.Machine

/-- With `ZP_PTR_WRAP` the next address is taken in 8 bits, at the page's top too. -/
theorem zpPtrHighAddr_wrap (p : Byte) : zpPtrHighAddr true p = zext16 (p + 1) := by
  by_cases hp : p = 0xFF
  · subst hp; rfl
  · exact if_neg hp

/-- Below the page's top, the next address is the same in 8 bits and in 16. -/
theorem zext16_add_one {p : Byte} (hp : p ≠ 0xFF) : zext16 (p + 1) = zext16 p + 1 := by
  have := zext16_toNat p
  rw [← BitVec.toNat_inj, zext16_toNat]
  bv_omega

/-- Without `ZP_PTR_WRAP` the next address is taken in 16 bits. -/
theorem zpPtrHighAddr_noWrap (p : Byte) : zpPtrHighAddr false p = zext16 p + 1 := by
  by_cases hp : p = 0xFF
  · subst hp; rfl
  · exact (if_neg hp).trans (zext16_add_one hp)

theorem loByte_readZpPtr (s : State) (p : Byte) : loByte (s.readZpPtr p) = s.read (zext16 p) :=
  loByte_joinBytes _ _

theorem hiByte_readZpPtr (s : State) (p : Byte) :
    hiByte (s.readZpPtr p) = s.read (zpPtrHighAddr s.cfg.zpPtrWrap p) :=
  hiByte_joinBytes _ _

/-- Settles O22: the two bytes joined are read back, the high one at the address that each `ZP_PTR_WRAP` gives. -/
theorem zeroPagePointerRead : Obligations.ZeroPagePointerRead := by
  refine fun s p => ⟨loByte_readZpPtr s p, fun hw => ?_, fun hw => ?_⟩
  · rw [hiByte_readZpPtr, hw, zpPtrHighAddr_wrap]
  · rw [hiByte_readZpPtr, hw, zpPtrHighAddr_noWrap]

end Sys2Proof.Machine
end

section
/-! ADC and SBC under each outcome of the decimal test (spec/41_alu.md rules R150, R151). -/

namespace Sys2Proof.Machine

theorem not_decimalFaults {s : State} (h : s.cfg.decimalPolicy = .binary ∨ s.p.d = false) : ¬ s.decimalFaults := by
  rintro ⟨hp, hd⟩
  rcases h with hb | hc
  · exact absurd (hb.symm.trans hp) nofun
  · exact absurd (hc.symm.trans hd) nofun

theorem addWithCarry_eq_next {s : State} (h : s.cfg.decimalPolicy = .binary ∨ s.p.d = false)
    (i : Instr) (o : Operand) (m : Byte) :
    addWithCarry i o m s = .next { s with
      a := adcResult s.a m s.p.c, p := s.p.afterAdc s.a m, budget := s.budget - s.readCost o } := by
  rcases addWithCarry_cases i o m s with ⟨hd, -⟩ | ⟨-, hn⟩
  · exact absurd hd (not_decimalFaults h)
  · exact hn

theorem addWithCarry_eq_fault {s : State} (hp : s.cfg.decimalPolicy = .fault) (hd : s.p.d = true)
    (i : Instr) (o : Operand) (m : Byte) : addWithCarry i o m s = .fault (decimalFault i s) :=
  if_pos ⟨hp, hd⟩

/-- Settles O25: the sum and its flags where the decimal test lets ADC complete, the fault where it does not. -/
theorem adcAddsWithCarry : Obligations.AdcAddsWithCarry := by
  refine ⟨fun n w => rfl, fun o s => ⟨fun h => ?_, fun hp hd => ?_⟩⟩
  · exact addWithCarry_eq_next h (.adc o) o (s.operand o)
  · exact ⟨_, _, addWithCarry_eq_fault hp hd (.adc o) o _⟩

/-! ## Adding the complement is subtracting (rule R151)

The complement of `M` is `255 - M`, so the sum with it is `A - M - (1 - C)` and 256; the borrow `1 - C` is written
`if c then 0 else 1`. -/

theorem adcSum_not (a m : Byte) (c : Bool) :
    adcSum a (~~~m) c + (m.toNat + (if c then 0 else 1)) = a.toNat + 256 := by
  rw [adcSum, bitNat, BitVec.toNat_not]
  split <;> omega

theorem afterAdc_not_c (p : Flags) (a m : Byte) :
    (p.afterAdc a (~~~m)).c = true ↔ m.toNat + (if p.c then 0 else 1) ≤ a.toNat := by
  have hc : (p.afterAdc a (~~~m)).c = decide (adcSum a (~~~m) p.c > 0xFF) := rfl
  have := adcSum_not a m p.c
  rw [hc, decide_eq_true_iff]
  omega

theorem adcResult_not_toNat (a m : Byte) (c : Bool) :
    ((adcResult a (~~~m) c).toNat : Int) = ((a.toNat : Int) - m.toNat - (if c then 0 else 1)) % 256 := by
  have := adcSum_not a m c
  have hborrow : ((if c then 0 else 1 : Nat) : Int) = if c then 0 else 1 := Nat.cast_ite c 0 1
  rw [adcResult, BitVec.toNat_ofNat]
  omega

/-- Settles O26: SBC and ADC of the complement leave one sum and one status, and differ in the operand's cost. -/
theorem sbcIsAdcOfTheComplement : Obligations.SbcIsAdcOfTheComplement := by
  refine ⟨fun n w => rfl, fun o s => ⟨fun h => ?_, fun hp hd => ?_⟩⟩
  · exact ⟨_, _, addWithCarry_eq_next h (.sbc o) o _, addWithCarry_eq_next h (.adc _) (.imm _) _, rfl,
      afterAdc_not_c s.p s.a (s.operand o), adcResult_not_toNat s.a (s.operand o) s.p.c⟩
  · exact ⟨_, _, addWithCarry_eq_fault hp hd (.sbc o) o _⟩

end Sys2Proof.Machine
end

section
/-! The logical operations, the compares and the bit test (spec/41_alu.md rules R152 to R158): their statements from the
equation of the meaning they share. -/

namespace Sys2Proof.Machine

/-- Settles O28: each is `logic` of its bitwise operation. -/
theorem logicalOperations : Obligations.LogicalOperations := by
  refine ⟨fun n w => ⟨rfl, rfl, rfl⟩, fun o s q hq => ?_⟩
  simp only [List.mem_cons, List.not_mem_nil, or_false] at hq
  rcases hq with rfl | rfl | rfl
  · exact logic_eq (· &&& ·) o s
  · exact logic_eq (· ||| ·) o s
  · exact logic_eq (· ^^^ ·) o s

/-- Settles O29: each is `compare` of its register. -/
theorem comparesWriteCarryZeroNegative : Obligations.ComparesWriteCarryZeroNegative := by
  refine ⟨fun n w => ⟨rfl, rfl, rfl⟩, fun o s q hq => ?_⟩
  simp only [List.mem_cons, List.not_mem_nil, or_false] at hq
  rcases hq with rfl | rfl | rfl
  · exact compare_eq .a o s
  · exact compare_eq .x o s
  · exact compare_eq .y o s

theorem exec_bit (m : MemMode) (s : State) :
    exec (.bit m) s = .next { s with
      p := s.p.afterBit s.a (s.read (s.ea m)), budget := s.budget - s.readCost (.mem m) } := rfl

/-- Settles O31: the status after BIT is `afterBit` of the byte at the effective address. -/
theorem bitTestsTheMemoryByte : Obligations.BitTestsTheMemoryByte :=
  ⟨fun _ _ => rfl, exec_bit⟩

end Sys2Proof.Machine
end

section
/-! Shifts, rotates, increments and decrements (spec/42_shift_incdec.md rules R200 to R209): the results as numbers, Z and N
of a number, and the meanings that share them. -/

namespace Sys2Proof.Machine

/-! ## Each shift as a number (rules R200 to R203) -/

theorem shiftAsl_toNat (c : Bool) (v : Byte) : (shiftAsl c v).1.toNat = 2 * v.toNat % 256 := by
  rw [shiftAsl, BitVec.toNat_shiftLeft, Nat.shiftLeft_eq, Nat.mul_comm]

theorem shiftLsr_toNat (c : Bool) (v : Byte) : (shiftLsr c v).1.toNat = v.toNat / 2 := by
  rw [shiftLsr, BitVec.toNat_ushiftRight, Nat.shiftRight_eq_div_pow]

theorem carryByte_toNat (c : Bool) : ((BitVec.ofBool c).zeroExtend 8).toNat = bitNat c := by
  cases c <;> rfl

/-- The carry enters at bit 0, which the shifted byte leaves clear, so the bitwise or is a sum. -/
theorem shiftRol_toNat (c : Bool) (v : Byte) : (shiftRol c v).1.toNat = (2 * v.toNat + bitNat c) % 256 := by
  have hc : bitNat c < 2 ^ 1 := by cases c <;> decide
  have hv : v.toNat <<< 1 % 2 ^ 8 = 2 ^ 1 * (v.toNat % 128) := by rw [Nat.shiftLeft_eq]; omega
  rw [shiftRol, BitVec.toNat_or, carryByte_toNat, BitVec.toNat_shiftLeft, hv, ← Nat.two_pow_add_eq_or_of_lt hc]
  omega

/-- The carry enters at bit 7, which the shifted byte leaves clear, so the bitwise or is a sum. -/
theorem shiftRor_toNat (c : Bool) (v : Byte) : (shiftRor c v).1.toNat = v.toNat / 2 + 128 * bitNat c := by
  have hv : v.toNat / 2 < 2 ^ 7 := by have := v.isLt; omega
  have hc : bitNat c <<< 7 % 2 ^ 8 = 2 ^ 7 * bitNat c := by cases c <;> rfl
  rw [shiftRor, BitVec.toNat_or, BitVec.toNat_shiftLeft, carryByte_toNat, hc, BitVec.toNat_ushiftRight,
    Nat.shiftRight_eq_div_pow, Nat.or_comm]
  exact (Nat.two_pow_add_eq_or_of_lt hv _).symm.trans (Nat.add_comm _ _)

/-! ## The shared meanings, with the result as a number -/

theorem Flags.setZN_of_toNat (p : Flags) {v : Byte} {r : Nat} (h : v.toNat = r) :
    p.setZN v = { p with z := decide (r = 0), n := decide (128 ≤ r) } := by
  have hz : (v == 0) = decide (r = 0) := by
    rw [← h, beq_eq_decide, decide_eq_decide, ← BitVec.toNat_inj]
    rfl
  have hn : v.getLsbD 7 = decide (128 ≤ r) := by
    rw [← h]
    exact (BitVec.msb_eq_getLsbD_last v).symm.trans (BitVec.msb_eq_decide v)
  rw [Flags.setZN, hz, hn]

theorem byte_eq_ofNat {v : Byte} {r : Nat} (h : v.toNat = r) : v = BitVec.ofNat 8 r := by
  rw [← h, BitVec.ofNat_toNat, BitVec.setWidth_eq]

theorem shift_acc_of_toNat {f : Bool → Byte → Byte × Bool} {s : State} {r : Nat} (h : (f s.p.c s.a).1.toNat = r) :
    shift f .acc s = .next { s with
      a := BitVec.ofNat 8 r
      p := { s.p with c := (f s.p.c s.a).2, z := decide (r = 0), n := decide (128 ≤ r) }
      budget := s.budget - 2 } := by
  rw [shift_acc_eq, Flags.setZN_of_toNat _ h, ← byte_eq_ofNat h]

theorem shift_mem_of_toNat {f : Bool → Byte → Byte × Bool} {m : MemMode} {s : State} {r : Nat}
    (h : (f s.p.c (s.read (s.ea m))).1.toNat = r) :
    ∃ t, shift f (.mem m) s = .next t ∧
      (∀ addr, t.read addr = if addr = s.ea m then BitVec.ofNat 8 r else s.read addr) ∧
      t = { s with
        mem := t.mem
        p := { s.p with c := (f s.p.c (s.read (s.ea m))).2, z := decide (r = 0), n := decide (128 ≤ r) }
        budget := s.budget - rmwCycles m } := by
  rw [shift_mem_eq, Flags.setZN_of_toNat _ h, byte_eq_ofNat h]
  exact ⟨_, rfl, fun addr => State.read_write s (s.ea m) addr _, rfl⟩

/-- Settles O32: each is `shift` of a function whose result is known as a number. -/
theorem shiftsAndRotates : Obligations.ShiftsAndRotates := by
  refine ⟨fun n w => ⟨rfl, rfl, rfl, rfl⟩, fun s q hq => ?_, fun m s => ?_⟩
  · simp only [List.mem_cons, List.not_mem_nil, or_false] at hq
    rcases hq with rfl | rfl | rfl | rfl
    · exact shift_acc_of_toNat (shiftAsl_toNat _ _)
    · exact shift_acc_of_toNat (shiftLsr_toNat _ _)
    · exact shift_acc_of_toNat (shiftRol_toNat _ _)
    · exact shift_acc_of_toNat (shiftRor_toNat _ _)
  · intro v q hq
    simp only [List.mem_cons, List.not_mem_nil, or_false] at hq
    rcases hq with rfl | rfl | rfl | rfl
    · exact shift_mem_of_toNat (shiftAsl_toNat _ _)
    · exact shift_mem_of_toNat (shiftLsr_toNat _ _)
    · exact shift_mem_of_toNat (shiftRol_toNat _ _)
    · exact shift_mem_of_toNat (shiftRor_toNat _ _)

/-! ## Increments and decrements (rules R204 to R209) -/

theorem update_spec (f : Byte → Byte) (m : MemMode) (s : State) :
    ∃ t, update f m s = .next t ∧
      (∀ addr, t.read addr = if addr = s.ea m then f (s.read (s.ea m)) else s.read addr) ∧
      t = { s with
        mem := t.mem
        p := { s.p with z := decide (f (s.read (s.ea m)) = 0), n := (f (s.read (s.ea m))).getLsbD 7 }
        budget := s.budget - rmwCycles m } :=
  ⟨_, update_eq f m s, fun addr => State.read_write s (s.ea m) addr _, rfl⟩

/-- Settles O33: each is `update` of adding or subtracting 1. -/
theorem incrementAndDecrementMemory : Obligations.IncrementAndDecrementMemory := by
  refine ⟨fun n w => ⟨rfl, rfl⟩, fun m s q hq => ?_⟩
  simp only [List.mem_cons, List.not_mem_nil, or_false] at hq
  rcases hq with rfl | rfl
  · exact update_spec (· + 1) m s
  · exact update_spec (· - 1) m s

theorem next_setReg_x_spend (s : State) (v : Byte) (k : Nat) :
    (.next ((s.setReg .x v).spend k) : Result) =
      .next { s with x := v, p := s.p.setZN v, budget := s.budget - k } := rfl

theorem next_setReg_y_spend (s : State) (v : Byte) (k : Nat) :
    (.next ((s.setReg .y v).spend k) : Result) =
      .next { s with y := v, p := s.p.setZN v, budget := s.budget - k } := rfl

/-- Settles O34: each writes its index register by `setReg` and spends two cycles. -/
theorem incrementAndDecrementIndex : Obligations.IncrementAndDecrementIndex := fun s =>
  ⟨rfl, next_setReg_x_spend s (s.x + 1) 2, next_setReg_y_spend s (s.y + 1) 2,
    next_setReg_x_spend s (s.x - 1) 2, next_setReg_y_spend s (s.y - 1) 2⟩

end Sys2Proof.Machine
end

section
/-! Loads, stores and register transfers (spec/43_load_store_transfer.md rules R250 to R265): the next state after a register
write by `setReg` or a store, field by field. -/

namespace Sys2Proof.Machine

theorem next_setReg_a_spend (s : State) (v : Byte) (k : Nat) :
    (.next ((s.setReg .a v).spend k) : Result) =
      .next { s with a := v, p := s.p.setZN v, budget := s.budget - k } := rfl

/-- Settles O35: each is `load` of its register, which writes the operand by `setReg` and spends the read's cost. -/
theorem loadsWriteTheRegister : Obligations.LoadsWriteTheRegister :=
  ⟨fun _ _ => ⟨rfl, rfl, rfl⟩, fun o s =>
    ⟨next_setReg_a_spend s (s.operand o) (s.readCost o), next_setReg_x_spend s (s.operand o) (s.readCost o),
      next_setReg_y_spend s (s.operand o) (s.readCost o)⟩⟩

theorem store_spec (r : Reg) (m : MemMode) (s : State) :
    ∃ t, store r m s = .next t ∧
      (∀ addr, t.read addr = if addr = s.ea m then s.reg r else s.read addr) ∧
      t = { s with mem := t.mem, budget := s.budget - storeCycles m } :=
  ⟨_, store_eq r m s, fun addr => State.read_write s (s.ea m) addr (s.reg r), rfl⟩

/-- Settles O36: each is `store` of its register. -/
theorem storesWriteOneByte : Obligations.StoresWriteOneByte := by
  refine ⟨fun n w => ⟨rfl, rfl, rfl⟩, fun m s q hq => ?_⟩
  simp only [List.mem_cons, List.not_mem_nil, or_false] at hq
  rcases hq with rfl | rfl | rfl
  · exact store_spec .a m s
  · exact store_spec .x m s
  · exact store_spec .y m s

theorem exec_txs (s : State) : exec .txs s = .next { s with sp := s.x, budget := s.budget - 2 } := rfl

/-- Settles O37: each but TXS writes its destination by `setReg` and spends two cycles; TXS writes SP, which sets no flag. -/
theorem registerTransfers : Obligations.RegisterTransfers := fun s =>
  ⟨rfl, next_setReg_x_spend s s.a 2, next_setReg_y_spend s s.a 2, next_setReg_a_spend s s.x 2,
    next_setReg_a_spend s s.y 2, next_setReg_x_spend s s.sp 2, exec_txs s⟩

end Sys2Proof.Machine
end

section
/-! Pushes and pulls (spec/44_stack.md rules R300 to R303): the next state after one step of the stack engine. -/

namespace Sys2Proof.Machine

/-- A push writes the one byte at the stack pointer's address. -/
theorem next_push8_spend_spec (s : State) (v : Byte) (k : Nat) :
    ∃ t, (.next ((s.push8 v).spend k) : Result) = .next t ∧
      (∀ addr, t.read addr = if addr = 0x0100 + zext16 s.sp then v else s.read addr) ∧
      t = { s with mem := t.mem, sp := s.sp + 1, budget := s.budget - k } :=
  ⟨_, rfl, State.push8_read s v, rfl⟩

/-- Settles O38: each is a push of its byte that spends three cycles. -/
theorem pushesWriteOneByte : Obligations.PushesWriteOneByte := by
  refine fun s => ⟨rfl, rfl, fun q hq => ?_⟩
  simp only [List.mem_cons, List.not_mem_nil, or_false] at hq
  rcases hq with rfl | rfl
  · exact next_push8_spend_spec s s.a 3
  · exact next_push8_spend_spec s s.p.pack 3

theorem next_pop8_setReg_a_spend (s : State) (k : Nat) :
    (.next ((s.pop8.2.setReg .a s.pop8.1).spend k) : Result) =
      .next { s with
        a := s.read (stackAddr (s.sp - 1)), sp := s.sp - 1
        p := s.p.setZN (s.read (stackAddr (s.sp - 1))), budget := s.budget - k } := by
  rw [State.pop8_eq, next_setReg_a_spend]

theorem next_pop8_setFlags_spend (s : State) (k : Nat) :
    (.next ((s.pop8.2.setFlags (Flags.unpack s.pop8.1)).spend k) : Result) =
      .next { s with
        sp := s.sp - 1, p := Flags.unpack (s.read (stackAddr (s.sp - 1))), budget := s.budget - k } := by
  rw [State.pop8_eq, State.setFlags, State.spend]

/-- Settles O39: each is a pull that spends four cycles; PLA writes the byte to A by `setReg`, PLP unpacks it into the flags. -/
theorem pullsReadOneByte : Obligations.PullsReadOneByte := fun s =>
  ⟨rfl, rfl, next_pop8_setReg_a_spend s 4, next_pop8_setFlags_spend s 4⟩

end Sys2Proof.Machine
end

section
/-! Jumps, subroutine call and return, and branches (spec/45_control_flow.md rules R320 to R332). -/

namespace Sys2Proof.Machine

/-! ## The absolute-indirect jump (rules R121, R321) -/

theorem exec_jmpInd (ptr : Addr) (s : State) :
    exec (.jmpInd ptr) s = .next { s with pc := s.indirectTarget ptr, budget := s.budget - 5 } := rfl

theorem loByte_indirectTarget (s : State) (ptr : Addr) : loByte (s.indirectTarget ptr) = s.read ptr :=
  loByte_joinBytes _ _

theorem hiByte_indirectTarget_of_legacy {s : State} {ptr : Addr} (hm : s.cfg.mode = .legacy) (hp : loByte ptr = 0xFF) :
    hiByte (s.indirectTarget ptr) = s.read (ptr &&& 0xFF00) := by
  rw [State.indirectTarget, hiByte_joinBytes, if_pos ⟨hm, hp⟩]

theorem hiByte_indirectTarget_of_modern_or_ne {s : State} {ptr : Addr} (h : s.cfg.mode = .modern ∨ loByte ptr ≠ 0xFF) :
    hiByte (s.indirectTarget ptr) = s.read (ptr + 1) := by
  have hn : ¬ (s.cfg.mode = .legacy ∧ loByte ptr = 0xFF) := by
    rintro ⟨hm, hp⟩
    rcases h with hm' | hp'
    · exact absurd (hm'.symm.trans hm) nofun
    · exact hp' hp
  rw [State.indirectTarget, hiByte_joinBytes, if_neg hn]

/-- Settles O42: the direct jump by its arm, the indirect one byte by byte of its target. -/
theorem jumpsSetThePc : Obligations.JumpsSetThePc := fun s w =>
  ⟨rfl, rfl, rfl, _, exec_jmpInd w s, rfl, loByte_indirectTarget s w, hiByte_indirectTarget_of_legacy,
    hiByte_indirectTarget_of_modern_or_ne⟩

/-! ## Subroutine call and return (rules R322, R323) -/

theorem exec_jsr (w : Addr) (s : State) :
    exec (.jsr w) s = .next (((s.push16 (s.pc - 1)).setPc w).spend 6) := rfl

theorem exec_rts (s : State) : exec .rts s = .next ((s.pop16.2.setPc (s.pop16.1 + 1)).spend 6) := rfl

/-- The two slots of a 16-bit push are distinct, so either may be tested first. -/
theorem State.push16_read_lo_first (s : State) (w a : Addr) :
    (s.push16 w).read a = if a = stackAddr s.sp then loByte w
      else if a = stackAddr (s.sp + 1) then hiByte w else s.read a := by
  have hne : stackAddr s.sp ≠ stackAddr (s.sp + 1) := by
    rw [ne_eq, stackAddr_inj]
    bv_omega
  rw [State.push16_read]
  by_cases ha : a = stackAddr s.sp
  · rw [if_neg (ha ▸ hne), if_pos ha, if_pos ha]
  · rw [if_neg ha, if_neg ha]

/-- Settles O43: the memory after JSR is that of the 16-bit push, and the push leaves every other field but SP. -/
theorem jsrPushesTheReturnAddress : Obligations.JsrPushesTheReturnAddress := fun s w =>
  ⟨rfl, _, exec_jsr w s, State.push16_read_lo_first s (s.pc - 1), by rw [State.push16_eq]; rfl⟩

/-- Settles O44: RTS is a 16-bit pop and a jump past the popped address. -/
theorem rtsReturnsPastThePoppedAddress : Obligations.RtsReturnsPastThePoppedAddress := fun s =>
  ⟨rfl, by rw [exec_rts, State.pop16_eq]; rfl⟩

/-! ## Branches (rules R122, R324 to R332) -/

theorem sext16_toNat (v : Byte) : ((sext16 v).toNat : Int) = v.toInt % 65536 := by
  rw [sext16, BitVec.signExtend, BitVec.toNat_ofInt]
  omega

/-- The signed offset is added modulo 2^16. -/
theorem State.branchTarget_toNat (s : State) (off : Byte) :
    ((s.branchTarget off).toNat : Int) = ((s.pc.toNat : Int) + off.toInt) % 65536 := by
  have := sext16_toNat off
  rw [State.branchTarget, BitVec.toNat_add]
  omega

theorem hiByte_eq_iff (u w : Addr) : hiByte u = hiByte w ↔ u.toNat / 256 = w.toNat / 256 := by
  rw [← BitVec.toNat_inj, hiByte_toNat, hiByte_toNat]

theorem State.branchCycles_true (s : State) (off : Byte) :
    s.branchCycles true off = if (s.branchTarget off).toNat / 256 = s.pc.toNat / 256 then 3 else 4 := by
  simp only [State.branchCycles, if_true, hiByte_eq_iff]

/-- What a branch that tests the flag `f` for the value `v` answers, when the model takes it exactly where they agree. -/
theorem branch_spec {taken f v : Bool} (h : taken = (f == v)) (off : Byte) (s : State) :
    ∃ t, branch taken off s = .next t ∧ t = { s with pc := t.pc, budget := t.budget } ∧
      (f ≠ v → t.pc = s.pc ∧ t.budget = s.budget - 2) ∧
      (f = v →
        (t.pc.toNat : Int) = ((s.pc.toNat : Int) + off.toInt) % 65536 ∧
        t.budget = s.budget - (if t.pc.toNat / 256 = s.pc.toNat / 256 then 3 else 4)) := by
  refine ⟨_, branch_eq taken off s, rfl, fun hne => ?_, fun heq => ?_⟩
  · obtain rfl : taken = false := by rw [h, beq_false_of_ne hne]
    exact ⟨rfl, rfl⟩
  · obtain rfl : taken = true := by rw [h, heq, beq_self_eq_true]
    refine ⟨s.branchTarget_toNat off, ?_⟩
    dsimp only
    rw [State.branchCycles_true, Nat.cast_ite]
    rfl

/-- Settles O46: each is `branch` on its flag or on the flag's complement. -/
theorem branchesTestOneFlag : Obligations.BranchesTestOneFlag := by
  refine fun s off => ⟨rfl, fun q hq => ?_⟩
  simp only [List.mem_cons, List.not_mem_nil, or_false] at hq
  rcases hq with rfl | rfl | rfl | rfl | rfl | rfl | rfl | rfl
  · exact branch_spec (beq_false s.p.n).symm off s
  · exact branch_spec (beq_true s.p.n).symm off s
  · exact branch_spec (beq_false s.p.v).symm off s
  · exact branch_spec (beq_true s.p.v).symm off s
  · exact branch_spec (beq_false s.p.c).symm off s
  · exact branch_spec (beq_true s.p.c).symm off s
  · exact branch_spec (beq_false s.p.z).symm off s
  · exact branch_spec (beq_true s.p.z).symm off s

end Sys2Proof.Machine
end

section
/-! Flag instructions, NOP, BRK and RTI (spec/46_flags_system.md rules R350 to R359). -/

namespace Sys2Proof.Machine

/-! ## The flag instructions and NOP (rules R350 to R357) -/

theorem next_setFlags_spend (s : State) (p : Flags) (k : Nat) :
    (.next ((s.setFlags p).spend k) : Result) = .next { s with p := p, budget := s.budget - k } := rfl

/-- Settles O47: each writes the status with its one flag changed by `setFlags` and spends two cycles. -/
theorem flagInstructionsWriteOneFlag : Obligations.FlagInstructionsWriteOneFlag := by
  refine fun s => ⟨rfl, fun q hq => ?_⟩
  simp only [List.mem_cons, List.not_mem_nil, or_false] at hq
  rcases hq with rfl | rfl | rfl | rfl | rfl | rfl | rfl <;> exact next_setFlags_spend s _ 2

theorem exec_nop (s : State) : exec .nop s = .next (s.spend 2) := rfl

/-- Settles O48: NOP only spends two cycles, whatever the configuration. -/
theorem nopChangesNothing : Obligations.NopChangesNothing := fun s => ⟨rfl, exec_nop s⟩

/-! ## BRK (rule R358; spec/60_exceptions.md rule R384) -/

theorem exec_brk (s : State) : exec .brk s = .next (s.takeBreak.spend 7) := rfl

/-- The stack page ends below every address from 0x0200 on, so no push reaches the interrupt vector (rule R63). -/
theorem ne_stackAddr_of_le {a : Addr} (h : 0x200 ≤ a.toNat) (sp : Byte) : a ≠ stackAddr sp := by
  rintro rfl
  have := sp.isLt
  rw [stackAddr_toNat] at h
  omega

/-- Memory after trap entry is memory after its pushes: the vector read and the flag write leave it alone. -/
theorem State.takeBreak_read_eq (s : State) (a : Addr) :
    s.takeBreak.read a = ((s.push16 s.pc).push8 s.p.pack).read a :=
  State.read_congr (by rw [State.takeBreak_eq]) a

/-- The three stacked bytes lie in distinct slots, so the status byte's may be tested last. -/
theorem State.takeBreak_read (s : State) (a : Addr) :
    s.takeBreak.read a = if a = stackAddr s.sp then loByte s.pc
      else if a = stackAddr (s.sp + 1) then hiByte s.pc
      else if a = stackAddr (s.sp + 2) then s.p.pack else s.read a := by
  have hlo : stackAddr s.sp ≠ stackAddr (s.sp + 2) := by
    rw [ne_eq, stackAddr_inj]
    bv_omega
  have hhi : stackAddr (s.sp + 1) ≠ stackAddr (s.sp + 2) := by
    rw [ne_eq, stackAddr_inj]
    bv_omega
  rw [State.takeBreak_read_eq, State.push8_read, State.push16_sp, State.push16_read_lo_first]
  by_cases ha : a = stackAddr (s.sp + 2)
  · rw [if_pos ha, ha, if_neg hlo.symm, if_neg hhi.symm, if_pos rfl]
  · rw [if_neg ha, if_neg ha]

/-- The vector is read after the pushes (rule R127), and holds what it held before them. -/
theorem State.takeBreak_pc (s : State) : s.takeBreak.pc = joinBytes (s.read 0xFFFF) (s.read 0xFFFE) := by
  have hread (a : Addr) (h : 0x200 ≤ a.toNat) : ((s.push16 s.pc).push8 s.p.pack).read a = s.read a := by
    rw [← State.takeBreak_read_eq, State.takeBreak_read, if_neg (ne_stackAddr_of_le h _),
      if_neg (ne_stackAddr_of_le h _), if_neg (ne_stackAddr_of_le h _)]
  calc s.takeBreak.pc
    _ = ((s.push16 s.pc).push8 s.p.pack).read16 irqVector := by rw [State.takeBreak_eq]
    _ = joinBytes (s.read (irqVector + 1)) (s.read irqVector) := by
      rw [State.read16, hread _ (by decide), hread _ (by decide)]

/-- Settles O50: the next state is that of trap entry; its memory by `takeBreak_read`, its PC by `takeBreak_pc`. -/
theorem brkTakesTheTrap : Obligations.BrkTakesTheTrap := fun s =>
  ⟨rfl, _, exec_brk s, s.takeBreak_read, by rw [← State.takeBreak_pc, State.takeBreak_eq]; rfl⟩

/-! ## RTI (rule R359; spec/60_exceptions.md rule R385) -/

theorem exec_rti (s : State) : exec .rti s = .next (s.returnFromBreak.spend 6) := rfl

/-- Settles O51: the next state is that of trap return, with the popped byte unpacked flag by flag. -/
theorem rtiReturnsFromTheTrap : Obligations.RtiReturnsFromTheTrap := fun s =>
  ⟨rfl, by rw [exec_rti, State.returnFromBreak_eq]; rfl⟩

end Sys2Proof.Machine
end

section
/-! What the decimal fault records (spec/60_exceptions.md rule R380). -/

namespace Sys2Proof.Machine

/-- For a form with an opcode, the byte that the fault records is that opcode. -/
theorem decimalFault_eq_of_opcode {i : Instr} {op : Byte} (h : i.opcode = some op) (s : State) :
    decimalFault i s = .decimalUnsupported op (s.pc - BitVec.ofNat 16 i.length) := by
  rw [decimalFault, h, Option.getD_some]

/-- ADC and SBC differ in the operand they add, which the fault does not depend on. -/
theorem exec_eq_decimalFault {s : State} (hp : s.cfg.decimalPolicy = .fault) (hd : s.p.d = true)
    {o : Operand} {i : Instr} (hi : i ∈ [Instr.adc o, .sbc o]) : exec i s = .fault (decimalFault i s) := by
  simp only [List.mem_cons, List.not_mem_nil, or_false] at hi
  rcases hi with rfl | rfl
  · exact addWithCarry_eq_fault hp hd (.adc o) o (s.operand o)
  · exact addWithCarry_eq_fault hp hd (.sbc o) o (~~~(s.operand o))

/-- Settles O54: both raise `decimalFault`, whose opcode byte is the given one. -/
theorem decimalFaultRecordsTheOpcode : Obligations.DecimalFaultRecordsTheOpcode :=
  fun _o s _i hi _op hop hp hd =>
    ⟨_, exec_eq_decimalFault hp hd hi, decimalFault_eq_of_opcode hop s, rfl⟩

end Sys2Proof.Machine
end

section
/-! The reset state (spec/70_reset_and_hazards.md rules R410 to R412). -/

namespace Sys2Proof.Machine

/-- The status byte with no flag set (rule R31: bit 5 is 0 as well). -/
@[simp] theorem Flags.pack_empty : Flags.empty.pack = 0x00 := by decide

/-- The three ways to a reset state differ in the memory, the parameters and the budget alone. -/
theorem State.eq_reset_with {s r : State} {mode : OperatingMode}
    (h : r ∈ [State.reset, State.construct mode, s.hostReset]) :
    ∃ mem cfg budget, r = { State.reset with mem := mem, cfg := cfg, budget := budget } := by
  simp only [List.mem_cons, List.not_mem_nil, or_false] at h
  rcases h with rfl | rfl | rfl
  · exact ⟨_, _, _, rfl⟩
  · exact ⟨_, _, _, rfl⟩
  · exact ⟨_, _, _, rfl⟩

@[simp] theorem State.reset_mode : State.reset.cfg.mode = .modern := rfl

@[simp] theorem State.construct_mode (mode : OperatingMode) : (State.construct mode).cfg.mode = mode := rfl

@[simp] theorem State.hostReset_cfg (s : State) : s.hostReset.cfg = s.cfg := rfl

@[simp] theorem State.hostReset_mem (s : State) : s.hostReset.mem = s.mem := rfl

@[simp] theorem State.hostReset_budget (s : State) : s.hostReset.budget = s.budget := rfl

/-- Settles O9: registers and flags are those of `State.reset` by `State.eq_reset_with`, the status byte is that of no
flag, and mode, memory and budget are as each way to the reset state leaves them. -/
theorem resetLeavesTheStatedValues : Obligations.ResetLeavesTheStatedValues := by
  refine ⟨fun s mode r hr => ?_, State.reset_mode, State.construct_mode, fun s =>
    ⟨congrArg Config.mode s.hostReset_cfg, s.hostReset_mem, s.hostReset_budget⟩⟩
  obtain ⟨mem, cfg, budget, rfl⟩ := State.eq_reset_with hr
  exact ⟨rfl, rfl, rfl, rfl, rfl, rfl, Flags.pack_empty⟩

end Sys2Proof.Machine
end

section
/-! Decoding and encoding undo each other (spec/30_encoding.md rules R80 to R86): the opcode lists of rule R85 lead into the
opcode map of rule R84, as `descriptor_encodes` leads back. -/

namespace Sys2Proof

/-! ## From the opcode lists to the map -/

/-- The instructions that an entry of the decoder's table at the opcode `op` can decode to. -/
def OpDesc.Yields (op : Byte) (i : Instr) : OpDesc → Prop
  | .illegal => i = .illegal op
  | .one j => i = j
  | .byte f => ∃ n, i = f n
  | .word f => ∃ w, i = f w

/-- An entry is the tag of an illegal byte. -/
def OpDesc.isIllegal : OpDesc → Bool
  | .illegal => true
  | _ => false

theorem OpDesc.eq_illegal_of_isIllegal {d : OpDesc} (h : d.isIllegal = true) : d = .illegal := by
  cases d
  case illegal => rfl
  all_goals cases h

/-- Every byte of rule R86's list has the illegal tag in the map of rule R84. -/
theorem illegalBytes_isIllegal : ∀ op ∈ illegalBytes, (descriptor op).isIllegal = true := by decide

theorem descriptor_of_mem_illegalBytes {op : Byte} (h : op ∈ illegalBytes) : descriptor op = .illegal :=
  OpDesc.eq_illegal_of_isIllegal (illegalBytes_isIllegal op h)

theorem opcode_illegal {q op : Byte} : (Instr.illegal q).opcode = some op ↔ q = op ∧ op ∈ illegalBytes := by
  rw [Instr.opcode, Option.ite_none_right_eq_some, List.contains_iff_mem, Option.some_inj]
  constructor
  · rintro ⟨hq, rfl⟩
    exact ⟨rfl, hq⟩
  · rintro ⟨rfl, hq⟩
    exact ⟨hq, rfl⟩

/-- The map's entry at an instruction's opcode is an entry for that instruction. -/
theorem descriptor_yields {i : Instr} {op : Byte} (h : i.opcode = some op) : (descriptor op).Yields op i := by
  cases i
  case adc o | sbc o | and o | ora o | eor o | cmp o | cpx o | cpy o | lda o | ldx o | ldy o =>
    all_goals
      rcases o with n | m
      · cases h
        exact ⟨n, rfl⟩
      · cases m <;> cases h <;> exact ⟨_, rfl⟩
  case bit m | inc m | dec m | sta m | stx m | sty m =>
    all_goals cases m <;> cases h <;> exact ⟨_, rfl⟩
  case asl u | lsr u | rol u | ror u =>
    all_goals
      rcases u with _ | m
      · cases h
        exact rfl
      · cases m <;> cases h <;> exact ⟨_, rfl⟩
  case jmpAbs a | jmpInd a | jsr a =>
    all_goals cases h; exact ⟨a, rfl⟩
  case bpl r | bmi r | bvc r | bvs r | bcc r | bcs r | bne r | beq r =>
    all_goals cases h; exact ⟨r, rfl⟩
  case illegal q =>
    obtain ⟨rfl, hq⟩ := opcode_illegal.1 h
    rw [descriptor_of_mem_illegalBytes hq]
    rfl
  all_goals
    cases h
    exact rfl

theorem decodeOperands_of_yields {op : Byte} {d : OpDesc} {i : Instr} (he : d.Encodes op) (hy : d.Yields op i)
    (rest : List Byte) : decodeOperands op d (i.operandBytes ++ rest) = .ok i rest := by
  cases d with
  | illegal =>
    obtain rfl : i = .illegal op := hy
    rfl
  | one j =>
    obtain rfl : i = j := hy
    rw [he.2]
    rfl
  | byte f =>
    obtain ⟨n, rfl⟩ := hy
    rw [(he n).2]
    rfl
  | word f =>
    obtain ⟨w, rfl⟩ := hy
    rw [(he w).2, wordBytes, List.cons_append, List.cons_append, List.nil_append, decodeOperands, joinBytes_bytes]

theorem decode_opcode_operandBytes {i : Instr} {op : Byte} (h : i.opcode = some op) (rest : List Byte) :
    decode (op :: i.operandBytes ++ rest) = .ok i rest :=
  decodeOperands_of_yields (descriptor_encodes op) (descriptor_yields h) rest

/-! ## From the map to the opcode lists -/

theorem decodeOperands_eq_ok {op : Byte} {d : OpDesc} {i : Instr} {bs rest : List Byte} (he : d.Encodes op)
    (h : decodeOperands op d bs = .ok i rest) : i.opcode = some op ∧ bs = i.operandBytes ++ rest := by
  cases d with
  | illegal =>
    cases h
    exact ⟨opcode_illegal.2 ⟨rfl, List.contains_iff_mem.1 he⟩, rfl⟩
  | one j =>
    cases h
    exact ⟨he.1, by rw [he.2]; rfl⟩
  | byte f =>
    rcases bs with _ | ⟨n, bs⟩ <;> cases h
    exact ⟨(he n).1, by rw [(he n).2]; rfl⟩
  | word f =>
    rcases bs with _ | ⟨lo, _ | ⟨hi, bs⟩⟩ <;> cases h
    exact ⟨(he _).1, by rw [(he _).2, wordBytes_joinBytes]; rfl⟩

/-- The bytes that decode to an instruction are its opcode byte, its operand bytes and the rest. -/
theorem eq_of_decode_eq_ok {bs rest : List Byte} {i : Instr} (h : decode bs = .ok i rest) :
    ∃ op, i.opcode = some op ∧ bs = op :: i.operandBytes ++ rest := by
  rcases bs with _ | ⟨op, bs⟩
  · cases h
  · obtain ⟨hop, hbs⟩ := decodeOperands_eq_ok (descriptor_encodes op) h
    exact ⟨op, hop, by rw [hbs, List.cons_append]⟩

/-! ## Well-formed instructions are those with an opcode -/

open Laws.Encodable in
theorem encode_isSome_eq_wf (i : Instr) : (encode i).isSome = i.wf := by
  have h : Statement i := by
    cases i
    exacts [adc _, sbc _, and _, ora _, eor _, cmp _, cpx _, cpy _, bit _, asl _, lsr _, rol _, ror _, inc _, dec _,
      inx, iny, dex, dey, lda _, ldx _, ldy _, sta _, stx _, sty _, tax, tay, txa, tya, tsx, txs, pha, php, pla, plp,
      jmpAbs _, jmpInd _, jsr _, rts, bpl _, bmi _, bvc _, bvs _, bcc _, bcs _, bne _, beq _,
      clc, sec, cli, sei, cld, sed, clv, nop, brk, rti, illegal _]
  exact h.1

theorem wf_iff_opcode {i : Instr} : i.wf = true ↔ ∃ op, i.opcode = some op := by
  rw [← encode_isSome_eq_wf, encode, Option.isSome_map, Option.isSome_iff_exists]

theorem encode_of_opcode {i : Instr} {op : Byte} (h : i.opcode = some op) : encode i = some (op :: i.operandBytes) := by
  rw [encode, h, Option.map_some]

/-! ## The statements about encodings -/

/-- Settles O1: a well-formed instruction has an opcode, whose entry in the map yields it from its operand bytes. -/
theorem decodeOfEncodeIsTheInstruction : Obligations.DecodeOfEncodeIsTheInstruction := by
  intro i hwf
  obtain ⟨op, hop⟩ := wf_iff_opcode.1 hwf
  exact ⟨_, encode_of_opcode hop, decode_opcode_operandBytes hop⟩

/-- Settles O2: the map's entry asks for the operand bytes that the encoder writes. -/
theorem decodedBytesAreTheEncoding : Obligations.DecodedBytesAreTheEncoding := by
  intro bs i rest h
  obtain ⟨op, hop, hbs⟩ := eq_of_decode_eq_ok h
  exact ⟨wf_iff_opcode.2 ⟨op, hop⟩, _, encode_of_opcode hop, hbs⟩

/-- Settles O3: each word is decoded by the map's entry at its first byte. -/
theorem wordsOfTheMapDecode : Obligations.WordsOfTheMapDecode :=
  ⟨rfl, rfl, rfl, rfl, rfl, rfl, rfl, rfl, rfl, rfl, rfl, rfl⟩

/-- The list of rule R86 rises, so no byte stands in it twice. -/
theorem illegalBytes_nodup : illegalBytes.Nodup := by
  have h : illegalBytes.Pairwise (· < ·) := by decide
  exact h.imp BitVec.ne_of_lt

/-- Two bytes after the opcode are as many as any entry of the map asks for. -/
theorem decode_three_bytes (op b₁ b₂ : Byte) : ∃ i rest, decode [op, b₁, b₂] = .ok i rest := by
  rw [decode]
  cases descriptor op <;> exact ⟨_, _, rfl⟩

/-- Settles O4: a listed byte is the whole encoding of itself as illegal, and no other byte encodes an illegal one. -/
theorem everyOpcodeByteDecodes : Obligations.EveryOpcodeByteDecodes := by
  refine ⟨rfl, illegalBytes_nodup, fun op b₁ b₂ => ?_⟩
  obtain ⟨i, rest, h⟩ := decode_three_bytes op b₁ b₂
  refine ⟨i, rest, h, fun hmem => ?_, fun hmem q hq => ?_⟩
  · have hill : decode [op, b₁, b₂] = .ok (.illegal op) [b₁, b₂] :=
      decode_opcode_operandBytes (opcode_illegal.2 ⟨rfl, hmem⟩) [b₁, b₂]
    cases h.symm.trans hill
    exact ⟨rfl, rfl⟩
  · obtain ⟨op', hop, hbs⟩ := eq_of_decode_eq_ok h
    obtain rfl : op = op' := (List.cons.inj hbs).1
    exact hmem (opcode_illegal.1 (hq ▸ hop)).2

end Sys2Proof
end

section
/-! One instruction fetched and run (spec/40_dispatch_addressing.md rules R110 to R112): the fetch is the decoder's, and
what every instruction leaves unchanged or spends. -/

namespace Sys2Proof.Machine

/-! ## The fetched instruction -/

/-- The bytes at the PC decode to the instruction that is fetched. -/
theorem State.decode_codeBytes (s : State) : ∃ rest, decode s.codeBytes = .ok s.fetchInstr.1 rest := by
  have h2 : s.pc + 2 = s.pc + 1 + 1 := by rw [BitVec.add_assoc]; rfl
  rw [State.codeBytes, decode, State.fetchInstr, State.fetch8, h2]
  dsimp only
  cases descriptor (s.read s.pc) <;> exact ⟨_, rfl⟩

theorem State.fetchInstr_of_decode {s : State} {i : Instr} {rest : List Byte} (h : decode s.codeBytes = .ok i rest) :
    s.fetchInstr = (i, s.setPc (s.pc + BitVec.ofNat 16 i.length)) := by
  obtain ⟨rest', h'⟩ := s.decode_codeBytes
  obtain rfl : i = s.fetchInstr.1 := (Decoded.ok.inj (h.symm.trans h')).1
  exact Prod.ext rfl s.fetchInstr_spec.2

theorem State.fetchInstr_wf (s : State) : s.fetchInstr.1.wf = true :=
  wf_iff_opcode.2 ⟨_, s.fetchInstr_spec.1⟩

@[simp] theorem State.fetchInstr_mem (s : State) : s.fetchInstr.2.mem = s.mem := by
  rw [s.fetchInstr_spec.2, State.setPc_mem]

@[simp] theorem State.fetchInstr_p (s : State) : s.fetchInstr.2.p = s.p := by
  rw [s.fetchInstr_spec.2, State.setPc_p]

@[simp] theorem State.fetchInstr_cfg (s : State) : s.fetchInstr.2.cfg = s.cfg := by
  rw [s.fetchInstr_spec.2, State.setPc_cfg]

@[simp] theorem State.fetchInstr_budget (s : State) : s.fetchInstr.2.budget = s.budget := by
  rw [s.fetchInstr_spec.2, State.setPc_budget]

/-- The address of the fetched instruction is its length below the PC after it. -/
theorem State.fetchInstr_pc_sub_length (s : State) :
    s.fetchInstr.2.pc - BitVec.ofNat 16 s.fetchInstr.1.length = s.pc := by
  rw [s.fetchInstr_spec.2, State.setPc_pc, BitVec.add_sub_cancel]

/-- Settles O5: the fetched instruction is the decoded one, and the fetch moves the PC alone. -/
theorem stepRunsTheDecodedInstruction : Obligations.StepRunsTheDecodedInstruction := by
  intro s i rest h
  have hf := State.fetchInstr_of_decode h
  have hwf := s.fetchInstr_wf
  rw [hf] at hwf
  exact ⟨hwf, by rw [step, hf, State.setPc]⟩

/-! ## Which steps stop (spec/60_exceptions.md rule R380) -/

/-- Settles O7: `exec` stops only under a policy that is not the default. -/
theorem defaultPoliciesAlwaysStep : Obligations.DefaultPoliciesAlwaysStep := by
  rintro s ⟨hill, hdec⟩
  rcases exec_outcome s.fetchInstr.1 s.fetchInstr.2 with hn | ⟨⟨hd, -⟩, -⟩ | ⟨hi, -⟩
  · exact hn
  · rw [State.fetchInstr_cfg, hdec] at hd
    cases hd
  · rw [State.fetchInstr_cfg, hill] at hi
    cases hi

/-- Settles O8: of the two faults of `exec`, each records the fetched instruction's opcode, the byte at the PC, and the
address that is its length below the PC after it. -/
theorem onlyTheTwoFaultsStop : Obligations.OnlyTheTwoFaultsStop := by
  intro s
  obtain ⟨rest, hdec⟩ := s.decode_codeBytes
  have hop := s.fetchInstr_spec.1
  have haddr := s.fetchInstr_pc_sub_length
  rcases exec_outcome s.fetchInstr.1 s.fetchInstr.2 with ⟨t, hn⟩ | ⟨⟨hpol, hd⟩, hi, hf⟩ | ⟨hpol, op, hi, hf⟩
  · exact ⟨fun r hr => (nomatch hn.symm.trans hr), fun f hr => (nomatch hn.symm.trans hr)⟩
  · refine ⟨fun r hr => (nomatch hf.symm.trans hr), fun f hr => .inr ?_⟩
    cases hf.symm.trans hr
    rw [State.fetchInstr_cfg] at hpol
    rw [State.fetchInstr_p] at hd
    have hrec := decimalFault_eq_of_opcode hop s.fetchInstr.2
    rw [haddr] at hrec
    refine ⟨hrec, rfl, hpol, hd, ?_⟩
    rcases hi with ⟨o, ho⟩ | ⟨o, ho⟩
    · exact ⟨o, rest, .inl (ho ▸ hdec)⟩
    · exact ⟨o, rest, .inr (ho ▸ hdec)⟩
  · refine ⟨fun r hr => (nomatch hf.symm.trans hr), fun f hr => .inl ?_⟩
    cases hf.symm.trans hr
    rw [hi] at hop haddr
    obtain ⟨rfl, hmem⟩ := opcode_illegal.1 hop
    rw [State.fetchInstr_cfg] at hpol
    exact ⟨congrArg _ haddr, rfl, hpol, hmem⟩

/-! ## Memory -/

/-- Settles O17: a byte is written at each store address and nowhere else. -/
theorem memoryChangesOnlyAtStoreAddresses : Obligations.MemoryChangesOnlyAtStoreAddresses := by
  intro i s t addr h hnot
  obtain ⟨ws, hws, hm⟩ := exec_mem h
  rw [State.read, hm, Memory.get_setAll_of_notMem (hws ▸ hnot), State.read]

/-- Settles O10: nothing is listed at reset. -/
theorem resetSatisfiesTheInvariant : Obligations.ResetSatisfiesTheInvariant :=
  ⟨List.Pairwise.nil, nofun⟩

/-- Settles O11: the fetch leaves memory alone, and each byte written keeps its form. -/
theorem stepKeepsTheInvariant : Obligations.StepKeepsTheInvariant := by
  intro s t hinv h
  obtain ⟨ws, -, hm⟩ := exec_mem h
  rw [State.fetchInstr_mem] at hm
  rw [State.Inv, hm]
  exact Memory.setAll_wf hinv ws

/-! ## Registers -/

theorem State.reg_congr {s t : State} (ha : t.a = s.a) (hx : t.x = s.x) (hy : t.y = s.y) : ∀ r, t.reg r = s.reg r
  | .a => ha
  | .x => hx
  | .y => hy

theorem reg_eq_of_writesReg_a {i : Instr} {s t : State} (hw : i.writesReg .a = true) (hx : t.x = s.x) (hy : t.y = s.y) :
    ∀ r, i.writesReg r = false → t.reg r = s.reg r
  | .a, h => absurd (hw.symm.trans h) nofun
  | .x, _ => hx
  | .y, _ => hy

theorem reg_eq_of_writesReg_x {i : Instr} {s t : State} (hw : i.writesReg .x = true) (ha : t.a = s.a) (hy : t.y = s.y) :
    ∀ r, i.writesReg r = false → t.reg r = s.reg r
  | .a, _ => ha
  | .x, h => absurd (hw.symm.trans h) nofun
  | .y, _ => hy

theorem reg_eq_of_writesReg_y {i : Instr} {s t : State} (hw : i.writesReg .y = true) (ha : t.a = s.a) (hx : t.x = s.x) :
    ∀ r, i.writesReg r = false → t.reg r = s.reg r
  | .a, _ => ha
  | .x, _ => hx
  | .y, h => absurd (hw.symm.trans h) nofun

/-- Settles O16: each instruction writes at most the register, SP or PC that its lists name. -/
theorem registersChangeOnlyByTheirWriters : Obligations.RegistersChangeOnlyByTheirWriters := by
  intro i s t h
  cases i
  case adc o | sbc o =>
    all_goals
      cases eq_of_addWithCarry_eq_next h
      exact ⟨reg_eq_of_writesReg_a rfl rfl rfl, fun _ => rfl, fun _ => rfl⟩
  case and o | ora o | eor o | lda o | txa | tya =>
    all_goals
      cases h
      exact ⟨reg_eq_of_writesReg_a rfl rfl rfl, fun _ => rfl, fun _ => rfl⟩
  case asl u | lsr u | rol u | ror u =>
    all_goals
      cases u <;> cases h
      · exact ⟨reg_eq_of_writesReg_a rfl rfl rfl, fun _ => rfl, fun _ => rfl⟩
      · exact ⟨fun r _ => State.reg_congr rfl rfl rfl r, fun _ => rfl, fun _ => rfl⟩
  case ldx o | tax | tsx | inx | dex =>
    all_goals
      cases h
      exact ⟨reg_eq_of_writesReg_x rfl rfl rfl, fun _ => rfl, fun _ => rfl⟩
  case ldy o | tay | iny | dey =>
    all_goals
      cases h
      exact ⟨reg_eq_of_writesReg_y rfl rfl rfl, fun _ => rfl, fun _ => rfl⟩
  case pla =>
    cases h
    exact ⟨reg_eq_of_writesReg_a rfl rfl rfl, nofun, fun _ => rfl⟩
  case pha | php | plp | txs =>
    all_goals
      cases h
      exact ⟨fun r _ => State.reg_congr rfl rfl rfl r, nofun, fun _ => rfl⟩
  case rts =>
    cases (rtsReturnsPastThePoppedAddress s).2.symm.trans h
    exact ⟨fun r _ => State.reg_congr rfl rfl rfl r, nofun, nofun⟩
  case rti =>
    cases (rtiReturnsFromTheTrap s).2.symm.trans h
    exact ⟨fun r _ => State.reg_congr rfl rfl rfl r, nofun, nofun⟩
  case jsr a =>
    cases (exec_jsr a s).symm.trans h
    rw [State.push16_eq]
    exact ⟨fun r _ => State.reg_congr rfl rfl rfl r, nofun, nofun⟩
  case brk =>
    cases (exec_brk s).symm.trans h
    rw [State.takeBreak_eq]
    exact ⟨fun r _ => State.reg_congr rfl rfl rfl r, nofun, nofun⟩
  case jmpAbs a | jmpInd a =>
    all_goals
      cases h
      exact ⟨fun r _ => State.reg_congr rfl rfl rfl r, fun _ => rfl, nofun⟩
  case bpl r | bmi r | bvc r | bvs r | bcc r | bcs r | bne r | beq r =>
    all_goals
      cases (branch_eq _ _ s).symm.trans h
      exact ⟨fun r _ => State.reg_congr rfl rfl rfl r, fun _ => rfl, nofun⟩
  case illegal op =>
    rw [exec, execIllegal] at h
    split at h <;> cases h
    exact ⟨fun r _ => State.reg_congr rfl rfl rfl r, fun _ => rfl, fun _ => rfl⟩
  all_goals
    cases h
    exact ⟨fun r _ => State.reg_congr rfl rfl rfl r, fun _ => rfl, fun _ => rfl⟩

/-- Settles O6: `exec` of an instruction that does not write the PC leaves it where the fetch moved it. -/
theorem pcAdvancesByTheLength : Obligations.PcAdvancesByTheLength := by
  intro s t i rest hdec hw h
  rw [(stepRunsTheDecodedInstruction s i rest hdec).2] at h
  obtain ⟨-, -, hpc⟩ := registersChangeOnlyByTheirWriters i _ t h
  exact hpc hw

end Sys2Proof.Machine
end

section
/-! What a step does with the core's parameters and the cycle budget (spec/10_state.md rule R33,
spec/40_dispatch_addressing.md rules R110, R121, R125; spec/70_reset_and_hazards.md rule R419). -/

namespace Sys2Proof.Machine

/-! ## The cost of an instruction -/

theorem readCost_bounds (s : State) (o : Operand) : 1 ≤ s.readCost o ∧ s.readCost o ≤ 7 := by
  have hbase : 2 ≤ readCycles o ∧ readCycles o ≤ 6 := by
    rcases o with n | m
    · simp [readCycles]
    · cases m <;> simp [readCycles]
  have hextra : s.pageExtra o ≤ 1 := by
    rcases o with n | m
    · exact Nat.zero_le 1
    · rw [State.pageExtra]
      split <;> decide
  rw [State.readCost]
  omega

theorem storeCycles_bounds (m : MemMode) : 1 ≤ storeCycles m ∧ storeCycles m ≤ 7 := by
  cases m <;> simp [storeCycles]

theorem rmwCycles_bounds {m : MemMode} (h : m.zpAbsX = true) : 1 ≤ rmwCycles m ∧ rmwCycles m ≤ 7 := by
  cases m <;> cases h <;> simp [rmwCycles]

theorem branchCycles_bounds (s : State) (taken : Bool) (off : Byte) :
    1 ≤ s.branchCycles taken off ∧ s.branchCycles taken off ≤ 7 := by
  rw [State.branchCycles]
  split
  · split <;> decide
  · decide

/-- The next state has the parameters of the state before and a budget less by 1 to 7 cycles. -/
def Spends (s t : State) : Prop :=
  t.cfg = s.cfg ∧ ∃ cost : Nat, (1 ≤ cost ∧ cost ≤ 7) ∧ t.budget = s.budget - cost

theorem exec_spends {i : Instr} {s t : State} (hwf : i.wf = true) (h : exec i s = .next t) : Spends s t := by
  cases i
  case adc o | sbc o =>
    all_goals
      cases eq_of_addWithCarry_eq_next h
      exact ⟨rfl, _, readCost_bounds s o, rfl⟩
  case and o | ora o | eor o | cmp o | cpx o | cpy o | lda o | ldx o | ldy o =>
    all_goals
      cases h
      exact ⟨rfl, _, readCost_bounds s o, rfl⟩
  case bit m =>
    cases h
    exact ⟨rfl, _, readCost_bounds s (.mem m), rfl⟩
  case asl u | lsr u | rol u | ror u =>
    all_goals
      cases u <;> cases h
      · exact ⟨rfl, 2, by decide, rfl⟩
      · exact ⟨rfl, _, rmwCycles_bounds hwf, rfl⟩
  case inc m | dec m =>
    all_goals
      cases h
      exact ⟨rfl, _, rmwCycles_bounds hwf, rfl⟩
  case sta m | stx m | sty m =>
    all_goals
      cases h
      exact ⟨rfl, _, storeCycles_bounds m, rfl⟩
  case bpl r | bmi r | bvc r | bvs r | bcc r | bcs r | bne r | beq r =>
    all_goals
      cases (branch_eq _ _ s).symm.trans h
      exact ⟨rfl, _, branchCycles_bounds s _ r, rfl⟩
  case illegal op =>
    rw [exec, execIllegal] at h
    split at h <;> cases h
    exact ⟨rfl, 1, by decide, rfl⟩
  case pha | php =>
    all_goals
      cases h
      exact ⟨rfl, 3, by decide, rfl⟩
  case pla | plp =>
    all_goals
      cases h
      exact ⟨rfl, 4, by decide, rfl⟩
  case jmpAbs a =>
    cases h
    exact ⟨rfl, 3, by decide, rfl⟩
  case jmpInd a =>
    cases h
    exact ⟨rfl, 5, by decide, rfl⟩
  case jsr a =>
    cases (exec_jsr a s).symm.trans h
    rw [State.push16_eq]
    exact ⟨rfl, 6, by decide, rfl⟩
  case rts =>
    cases (rtsReturnsPastThePoppedAddress s).2.symm.trans h
    exact ⟨rfl, 6, by decide, rfl⟩
  case brk =>
    cases (exec_brk s).symm.trans h
    rw [State.takeBreak_eq]
    exact ⟨rfl, 7, by decide, rfl⟩
  case rti =>
    cases (rtiReturnsFromTheTrap s).2.symm.trans h
    exact ⟨rfl, 6, by decide, rfl⟩
  all_goals
    cases h
    exact ⟨rfl, 2, by decide, rfl⟩

theorem step_spends {s t : State} (h : step s = .next t) : Spends s t := by
  have hs := exec_spends s.fetchInstr_wf h
  rwa [Spends, State.fetchInstr_cfg, State.fetchInstr_budget] at hs

/-- Settles O12: the fetch and every instruction keep the parameters. -/
theorem stepKeepsTheConfiguration : Obligations.StepKeepsTheConfiguration := fun _ _ h => (step_spends h).1

/-! ## Another operating mode, another budget -/

/-- The state in another operating mode and with a budget `k` higher: what rules R121 and R419 say makes no difference. -/
def State.rebase (mode : OperatingMode) (k : Int) (s : State) : State :=
  { s with cfg := { s.cfg with mode := mode }, budget := s.budget + k }

section
variable (mode : OperatingMode) (k : Int)

theorem next_spend_rebase {s t : State} {c d : Nat} (ht : t = s.rebase mode k) (hc : d = c) :
    (.next (t.spend d) : Result) = mapNext (State.rebase mode k) (.next (s.spend c)) := by
  rw [ht, hc, mapNext, State.rebase, State.rebase, State.spend, State.spend]
  dsimp only
  rw [sub_add_eq_add_sub]

theorem addWithCarry_rebase (i : Instr) (o : Operand) (m : Byte) (s : State) :
    addWithCarry i o m (s.rebase mode k) = mapNext (State.rebase mode k) (addWithCarry i o m s) := by
  by_cases h : s.decimalFaults
  · rw [addWithCarry, addWithCarry, if_pos h]
    exact if_pos h
  · rw [addWithCarry, addWithCarry, if_neg h]
    exact (if_neg h).trans (next_spend_rebase mode k rfl rfl)

theorem branch_rebase (taken : Bool) (off : Byte) (s : State) :
    branch taken off (s.rebase mode k) = mapNext (State.rebase mode k) (branch taken off s) := by
  cases taken <;> exact next_spend_rebase mode k rfl rfl

/-- The mode is read for a pointer that ends in 0xFF alone (rule R121). -/
theorem State.indirectTarget_rebase {s : State} {ptr : Addr} (h : mode = s.cfg.mode ∨ loByte ptr ≠ 0xFF) :
    (s.rebase mode k).indirectTarget ptr = s.indirectTarget ptr := by
  rcases h with rfl | hp
  · rfl
  · rw [State.indirectTarget, State.indirectTarget, if_neg fun hm => hp hm.2, if_neg fun hm => hp hm.2]
    rfl

theorem State.push16_rebase (s : State) (w : Addr) :
    (s.rebase mode k).push16 w = (s.push16 w).rebase mode k := rfl

theorem State.pop16_rebase (s : State) :
    (s.rebase mode k).pop16 = (s.pop16.1, s.pop16.2.rebase mode k) := rfl

theorem State.takeBreak_rebase (s : State) : (s.rebase mode k).takeBreak = s.takeBreak.rebase mode k := by
  rw [State.takeBreak_eq, State.takeBreak_eq]
  rfl

theorem State.returnFromBreak_rebase (s : State) :
    (s.rebase mode k).returnFromBreak = s.returnFromBreak.rebase mode k := rfl

theorem exec_rebase {i : Instr} {s : State} (h : ∀ ptr, i = .jmpInd ptr → mode = s.cfg.mode ∨ loByte ptr ≠ 0xFF) :
    exec i (s.rebase mode k) = mapNext (State.rebase mode k) (exec i s) := by
  cases i
  case adc o => exact addWithCarry_rebase mode k (.adc o) o (s.operand o) s
  case sbc o => exact addWithCarry_rebase mode k (.sbc o) o (~~~(s.operand o)) s
  case asl u | lsr u | rol u | ror u => all_goals cases u <;> exact next_spend_rebase mode k rfl rfl
  case bpl r | bmi r | bvc r | bvs r | bcc r | bcs r | bne r | beq r => all_goals exact branch_rebase mode k _ r s
  case illegal op =>
    cases hp : s.cfg.illegalPolicy
    · rw [exec_illegal_of_nop op hp, exec_illegal_of_nop op (s := s.rebase mode k) hp]
      exact next_spend_rebase mode k rfl rfl
    · rw [exec_illegal_of_fault op hp]
      exact exec_illegal_of_fault op hp
  case jmpInd ptr =>
    exact next_spend_rebase mode k (by rw [State.indirectTarget_rebase mode k (h ptr rfl)]; rfl) rfl
  case jsr a => exact next_spend_rebase mode k (by rw [State.push16_rebase]; rfl) rfl
  case rts => exact next_spend_rebase mode k (by rw [State.pop16_rebase]; rfl) rfl
  case brk => exact next_spend_rebase mode k (s.takeBreak_rebase mode k) rfl
  case rti => exact next_spend_rebase mode k (s.returnFromBreak_rebase mode k) rfl
  all_goals exact next_spend_rebase mode k rfl rfl

theorem State.fetchInstr_rebase (s : State) :
    (s.rebase mode k).fetchInstr = (s.fetchInstr.1, s.fetchInstr.2.rebase mode k) := by
  have hi : (s.rebase mode k).fetchInstr.1 = s.fetchInstr.1 := by
    obtain ⟨rest, h⟩ := s.decode_codeBytes
    rw [State.fetchInstr_of_decode (s := s.rebase mode k) h]
  refine Prod.ext hi ?_
  rw [(s.rebase mode k).fetchInstr_spec.2, hi, s.fetchInstr_spec.2]
  rfl

theorem step_rebase {s : State}
    (h : ∀ ptr, s.fetchInstr.1 = .jmpInd ptr → mode = s.cfg.mode ∨ loByte ptr ≠ 0xFF) :
    step (s.rebase mode k) = mapNext (State.rebase mode k) (step s) := by
  rw [step, State.fetchInstr_rebase, step]
  refine exec_rebase mode k fun ptr hi => ?_
  rw [State.fetchInstr_cfg]
  exact h ptr hi

end

theorem State.rebase_zero (mode : OperatingMode) (s : State) :
    s.rebase mode 0 = { s with cfg := { s.cfg with mode := mode } } := by
  rw [State.rebase, Int.add_zero]

theorem mapNext_congr {f g : State → State} {r : Result} (h : ∀ t, r = .next t → f t = g t) :
    mapNext f r = mapNext g r := by
  cases r with
  | next t => exact congrArg _ (h t rfl)
  | fault e => rfl
  | refused e => rfl

/-- Settles O13: a step in another mode, the budget kept, where no pointer that ends in 0xFF is read. -/
theorem operatingModeAffectsOnlyIndirectJump : Obligations.OperatingModeAffectsOnlyIndirectJump := by
  intro s mode h
  obtain ⟨rest, hdec⟩ := s.decode_codeBytes
  have hstep := step_rebase mode 0 (s := s) fun ptr hi => .inr (h ptr rest (hi ▸ hdec))
  rw [State.rebase_zero] at hstep
  exact hstep.trans (mapNext_congr fun t _ => State.rebase_zero mode t)

/-- Settles O14: a step in the same mode, which the next state has too, with another budget. -/
theorem budgetIsNotTested : Obligations.BudgetIsNotTested := by
  intro s k
  refine (step_rebase s.cfg.mode k (s := s) fun _ _ => .inl rfl).trans (mapNext_congr fun t ht => ?_)
  rw [← stepKeepsTheConfiguration s t ht]
  rfl

/-- Settles O53: the cost of the step from the budget 0 is the cost from every other. -/
theorem dispatchReturnsTheRemainingBudget : Obligations.DispatchReturnsTheRemainingBudget := by
  intro s hpol
  obtain ⟨t, ht⟩ := defaultPoliciesAlwaysStep { s with budget := 0 } hpol
  obtain ⟨-, cost, ⟨hlo, hhi⟩, hcost⟩ := step_spends ht
  refine ⟨cost, hlo, hhi, fun budget => ⟨{ t with budget := t.budget + budget }, ?_, ?_⟩⟩
  · have hstep := budgetIsNotTested { s with budget := 0 } budget
    rw [ht, Int.zero_add] at hstep
    exact hstep
  · calc t.budget + budget
      _ = 0 - cost + budget := by rw [hcost]
      _ = budget - cost := by omega

end Sys2Proof.Machine
end

section
/-! Signed overflow, and the compare beside the subtraction (spec/41_alu.md rules R159, R160). -/

namespace Sys2Proof.Machine

/-! ## Signed overflow (rule R159) -/

theorem getLsbD_seven (v : Byte) : v.getLsbD 7 = decide (128 ≤ v.toNat) :=
  (BitVec.msb_eq_getLsbD_last v).symm.trans (BitVec.msb_eq_decide v)

theorem byte_toInt (v : Byte) : v.toInt = if 128 ≤ v.toNat then (v.toNat : Int) - 256 else v.toNat := by
  rw [BitVec.toInt_eq_toNat_cond]
  split <;> split <;> omega

/-- The sign of the sum differs from the common sign of the addends exactly where the signed sum is out of range. -/
theorem afterAdc_v (p : Flags) (a m : Byte) :
    (p.afterAdc a m).v = true ↔
      a.toInt + m.toInt + bitNat p.c < -128 ∨ 127 < a.toInt + m.toInt + bitNat p.c := by
  have hv : (p.afterAdc a m).v =
      ((a.getLsbD 7 == m.getLsbD 7) && ((adcResult a m p.c).getLsbD 7 != a.getLsbD 7)) := rfl
  have hr : (adcResult a m p.c).toNat = (a.toNat + m.toNat + bitNat p.c) % 256 := BitVec.toNat_ofNat _ _
  have hc : bitNat p.c ≤ 1 := by cases p.c <;> decide
  have ha := a.isLt
  have hm := m.isLt
  rw [hv, getLsbD_seven, getLsbD_seven, getLsbD_seven, hr, byte_toInt, byte_toInt, Bool.and_eq_true, beq_iff_eq,
    bne_iff_ne, ne_eq, decide_eq_decide, decide_eq_decide]
  split <;> split <;> omega

theorem byte_toInt_not (m : Byte) : (~~~m).toInt = -1 - m.toInt := by
  have := m.isLt
  rw [byte_toInt, byte_toInt, BitVec.toNat_not]
  split <;> split <;> omega

/-- Settles O27: the overflow of a sum, and for SBC of the sum with the complement `-1 - M`. -/
theorem overflowIsSignedOverflow : Obligations.OverflowIsSignedOverflow := by
  intro o s h
  refine ⟨_, _, addWithCarry_eq_next h (.adc o) o _, addWithCarry_eq_next h (.sbc o) o _, ?_, ?_⟩
  · refine (afterAdc_v s.p s.a (s.operand o)).trans ?_
    rw [bitNat, Nat.cast_ite, Nat.cast_one, Nat.cast_zero]
  · refine (afterAdc_v s.p s.a (~~~(s.operand o))).trans ?_
    rw [byte_toInt_not, bitNat]
    split <;> omega

/-! ## Compare and subtract (rule R160) -/

theorem adcResult_not_true (a m : Byte) : adcResult a (~~~m) true = a - m := by
  have hsum : adcSum a (~~~m) true + m.toNat = a.toNat + 256 := adcSum_not a m true
  have := m.isLt
  rw [← BitVec.toNat_inj, adcResult, BitVec.toNat_ofNat, BitVec.toNat_sub]
  omega

/-- Settles O30: with C set, SBC's difference is the compare's, and no borrow is "not less". -/
theorem compareAgreesWithSbc : Obligations.CompareAgreesWithSbc := by
  intro o s h
  have hr := adcResult_not_true s.a (s.operand o)
  refine ⟨_, _, compare_eq .a o s,
    addWithCarry_eq_next (s := { s with p := { s.p with c := true } }) h (.sbc o) o (~~~(s.operand o)), ?_, ?_, ?_, rfl, rfl⟩
  · have hc := afterAdc_not_c { s.p with c := true } s.a (s.operand o)
    rw [Bool.eq_iff_iff]
    exact decide_eq_true_iff.trans hc.symm
  · refine Eq.trans ?_ (congrArg (· == 0) hr).symm
    show (s.a == s.operand o) = (s.a - s.operand o == 0)
    rw [Bool.eq_iff_iff, beq_iff_eq, beq_iff_eq, sub_eq_zero]
  · exact (congrArg (BitVec.getLsbD · 7) hr).symm

end Sys2Proof.Machine
end

section
/-! The status byte unpacked (spec/10_state.md rule R32), bit by bit. -/

namespace Sys2Proof.Machine

theorem Flags.unpack_pack (p : Flags) : Flags.unpack p.pack = p := by
  rw [Flags.unpack, p.pack_bit7, p.pack_bit6, p.pack_bit4, p.pack_bit3, p.pack_bit2, p.pack_bit1, p.pack_bit0]

/-- Bit 5 alone has no flag to be kept in. -/
theorem Flags.pack_unpack (b : Byte) : (Flags.unpack b).pack = b &&& 0xDF := by
  refine BitVec.eq_of_getLsbD_eq fun k hk => ?_
  rw [BitVec.getLsbD_and]
  interval_cases k
  · rw [Flags.pack_bit0]; exact (Bool.and_true _).symm
  · rw [Flags.pack_bit1]; exact (Bool.and_true _).symm
  · rw [Flags.pack_bit2]; exact (Bool.and_true _).symm
  · rw [Flags.pack_bit3]; exact (Bool.and_true _).symm
  · rw [Flags.pack_bit4]; exact (Bool.and_true _).symm
  · rw [Flags.pack_bit5]; exact (Bool.and_false _).symm
  · rw [Flags.pack_bit6]; exact (Bool.and_true _).symm
  · rw [Flags.pack_bit7]; exact (Bool.and_true _).symm

/-- Settles O20: each flag is a bit of the byte, and packing puts all but bit 5 back. -/
theorem statusByteUnpacking : Obligations.StatusByteUnpacking :=
  ⟨Flags.unpack_pack, fun b => ⟨rfl, Flags.pack_unpack b⟩⟩

end Sys2Proof.Machine
end

section
/-! Round trips through the stack (spec/44_stack.md rule R304, spec/45_control_flow.md rule R333, spec/46_flags_system.md rule
R360): what was pushed is what is pulled, as long as nothing else was stored there. -/

namespace Sys2Proof.Machine

/-! ## One byte -/

/-- Pulling where a byte was pushed gives that byte and the stack pointer before the push. -/
theorem State.pop8_of_push8 {s t : State} {v : Byte} (hsp : t.sp = s.sp + 1)
    (hread : t.read (stackAddr s.sp) = (s.push8 v).read (stackAddr s.sp)) :
    t.pop8 = (v, t.setSp s.sp) := by
  rw [State.pop8_eq, hsp, BitVec.add_sub_cancel, hread, State.push8_read, if_pos rfl, State.setSp]

/-- Settles O40: the byte pulled is the byte pushed; SetZN of A for PLA, the unpacked status for PLP. -/
theorem pushPullRoundTrips : Obligations.PushPullRoundTrips := by
  intro s t t' hsp hread
  refine ⟨fun h => ?_, fun h => ?_⟩
  · cases h
    have hpop := State.pop8_of_push8 (v := s.a) hsp hread
    refine ⟨_, rfl, ?_⟩
    rw [hpop]
    exact ⟨rfl, rfl, rfl, rfl⟩
  · cases h
    have hpop := State.pop8_of_push8 (v := s.p.pack) hsp hread
    refine ⟨_, rfl, ?_⟩
    rw [hpop, Flags.unpack_pack]
    exact ⟨rfl, rfl⟩

/-! ## Two and three bytes -/

theorem stackAddr_add_ne {p d e : Byte} (h : d ≠ e) : stackAddr (p + d) ≠ stackAddr (p + e) := fun hs =>
  h ((BitVec.add_right_inj p).1 ((stackAddr_inj _ _).1 hs))

theorem stackAddr_add_ne_self {p d : Byte} (h : d ≠ 0) : stackAddr (p + d) ≠ stackAddr p := by
  simpa using stackAddr_add_ne (p := p) h

/-- The two bytes that a 16-bit push stacks, from the stack pointer up. -/
theorem State.push16_stacked (s : State) (w : Addr) :
    (s.push16 w).read (stackAddr s.sp) = loByte w ∧ (s.push16 w).read (stackAddr (s.sp + 1)) = hiByte w := by
  refine ⟨?_, ?_⟩
  · rw [State.push16_read_lo_first, if_pos rfl]
  · rw [State.push16_read, if_pos rfl]

/-- Settles O45: RTS joins the two bytes of the address that JSR split, and goes one past it. -/
theorem subroutineRoundTrip : Obligations.SubroutineRoundTrip := by
  intro s t t' w h hsp hlo hhi
  cases (exec_jsr w s).symm.trans h
  obtain ⟨hpushLo, hpushHi⟩ := s.push16_stacked (s.pc - 1)
  have hlo' : t'.read (stackAddr s.sp) = loByte (s.pc - 1) := hlo.trans hpushLo
  have hhi' : t'.read (stackAddr (s.sp + 1)) = hiByte (s.pc - 1) := hhi.trans hpushHi
  have htsp : t'.sp = s.sp + 2 := hsp.trans (s.push16_sp (s.pc - 1))
  have h1 : t'.sp - 1 = s.sp + 1 := by rw [htsp]; bv_omega
  have h2 : t'.sp - 2 = s.sp := by rw [htsp, BitVec.add_sub_cancel]
  refine ⟨_, exec_rts t', ?_⟩
  rw [State.pop16_eq, h1, h2, hlo', hhi', joinBytes_bytes, BitVec.sub_add_cancel]
  exact ⟨rfl, rfl⟩

/-- The three bytes that trap entry stacks, from the stack pointer up. -/
theorem State.takeBreak_stacked (s : State) :
    s.takeBreak.read (stackAddr s.sp) = loByte s.pc ∧
    s.takeBreak.read (stackAddr (s.sp + 1)) = hiByte s.pc ∧
    s.takeBreak.read (stackAddr (s.sp + 2)) = s.p.pack := by
  refine ⟨?_, ?_, ?_⟩
  · rw [State.takeBreak_read, if_pos rfl]
  · rw [State.takeBreak_read, if_neg (stackAddr_add_ne_self (by decide)), if_pos rfl]
  · rw [State.takeBreak_read, if_neg (stackAddr_add_ne_self (by decide)), if_neg (stackAddr_add_ne (by decide)),
      if_pos rfl]

/-- Settles O52: RTI unpacks the status that BRK packed, but for B, and joins the PC that BRK split. -/
theorem breakRoundTrip : Obligations.BreakRoundTrip := by
  intro s t t' h hsp hkept
  cases (exec_brk s).symm.trans h
  have hread (k : Byte) (hk : k ∈ [s.sp, s.sp + 1, s.sp + 2]) :
      t'.read (stackAddr k) = s.takeBreak.read (stackAddr k) := hkept k hk
  obtain ⟨hlo, hhi, hp⟩ := s.takeBreak_stacked
  rw [← hread _ (by simp)] at hlo hhi hp
  have htsp : t'.sp = s.sp + 3 := hsp.trans s.takeBreak_sp
  have h1 : t'.sp - 1 = s.sp + 2 := by rw [htsp]; bv_omega
  have h2 : t'.sp - 2 = s.sp + 1 := by rw [htsp]; bv_omega
  have h3 : t'.sp - 3 = s.sp := by rw [htsp, BitVec.add_sub_cancel]
  refine ⟨_, exec_rti t', ?_⟩
  rw [State.returnFromBreak_eq, h1, h2, h3, hlo, hhi, hp, joinBytes_bytes, Flags.unpack_pack]
  exact ⟨rfl, rfl, rfl⟩

/-! ## A whole page (spec/20_memory.md rule R63) -/

/-- An address that one of `n` pushes in a row from the stack pointer `sp` writes. -/
def PushedTo (sp : Byte) (n : Nat) (addr : Addr) : Prop := ∃ k < n, addr = stackAddr (sp + BitVec.ofNat 8 k)

theorem add_one_add_ofNat (sp : Byte) (k : Nat) : sp + 1 + BitVec.ofNat 8 k = sp + BitVec.ofNat 8 (k + 1) := by
  bv_omega

theorem pushedTo_succ {sp : Byte} {n : Nat} {addr : Addr} :
    PushedTo sp (n + 1) addr ↔ addr = stackAddr sp ∨ PushedTo (sp + 1) n addr := by
  constructor
  · rintro ⟨k, hk, rfl⟩
    cases k with
    | zero => exact .inl (congrArg stackAddr (BitVec.add_zero sp))
    | succ k => exact .inr ⟨k, by omega, by rw [add_one_add_ofNat]⟩
  · rintro (rfl | ⟨k, hk, rfl⟩)
    · exact ⟨0, by omega, congrArg stackAddr (BitVec.add_zero sp).symm⟩
    · exact ⟨k + 1, by omega, by rw [add_one_add_ofNat]⟩

/-- 256 pushes reach every address of the stack page and no other. -/
theorem pushedTo_page {sp : Byte} {addr : Addr} : PushedTo sp 256 addr ↔ addr.toNat / 256 = 1 := by
  constructor
  · rintro ⟨k, -, rfl⟩
    have := (sp + BitVec.ofNat 8 k).isLt
    rw [stackAddr_toNat]
    omega
  · intro h
    refine ⟨(loByte addr - sp).toNat, (loByte addr - sp).isLt, ?_⟩
    rw [BitVec.ofNat_toNat, BitVec.setWidth_eq, BitVec.add_comm, BitVec.sub_add_cancel, ← BitVec.toNat_inj,
      stackAddr_toNat, loByte_toNat]
    omega

open Classical in
theorem execTimes_pha (n : Nat) (s : State) :
    ∃ t, execTimes .pha n s = .next t ∧ t.sp = s.sp + BitVec.ofNat 8 n ∧
      ∀ addr, t.read addr = if PushedTo s.sp n addr then s.a else s.read addr := by
  induction n generalizing s with
  | zero => exact ⟨s, rfl, (BitVec.add_zero s.sp).symm, fun addr => (if_neg fun ⟨_, hk, _⟩ => Nat.not_lt_zero _ hk).symm⟩
  | succ n ih =>
    obtain ⟨t, ht, hsp, hread⟩ := ih ((s.push8 s.a).spend 3)
    refine ⟨t, ht, ?_, fun addr => ?_⟩
    · rw [hsp, State.spend_sp, State.push8_sp, add_one_add_ofNat]
    · have hpush : ((s.push8 s.a).spend 3).read addr = if addr = stackAddr s.sp then s.a else s.read addr :=
        State.push8_read s s.a addr
      rw [hread, hpush, State.spend_sp, State.push8_sp, State.spend_a, State.push8_a]
      by_cases h : PushedTo (s.sp + 1) n addr
      · rw [if_pos h, if_pos (pushedTo_succ.2 (.inr h))]
      · rw [if_neg h]
        simp only [pushedTo_succ, h, or_false]

/-- Settles O41: 256 pushes move SP by 256, which is 0, and write the whole page. -/
theorem pushingAWholePageWraps : Obligations.PushingAWholePageWraps := by
  intro s
  obtain ⟨t, ht, hsp, hread⟩ := execTimes_pha 256 s
  refine ⟨t, ht, by rw [hsp]; exact BitVec.add_zero s.sp, fun addr => ?_⟩
  rw [hread]
  simp only [pushedTo_page]

end Sys2Proof.Machine
end

section
/-! Effective addresses and cycle costs, mode by mode (spec/40_dispatch_addressing.md rules R115 to R126,
spec/30_encoding.md rule R85). -/

namespace Sys2Proof.Machine

theorem zext16_add_toNat (n k : Byte) : (zext16 (n + k)).toNat = (n.toNat + k.toNat) % 256 := by
  rw [zext16_toNat, BitVec.toNat_add]

theorem add_zext16_toNat (w : Addr) (k : Byte) : (w + zext16 k).toNat = (w.toNat + k.toNat) % 65536 := by
  rw [BitVec.toNat_add, zext16_toNat]

/-- Settles O21: the zero-page sums wrap in 8 bits, the others in 16. -/
theorem effectiveAddressOfEachMode : Obligations.EffectiveAddressOfEachMode := fun s n w =>
  ⟨zext16_toNat n, zext16_add_toNat n s.x, zext16_add_toNat n s.y, rfl, add_zext16_toNat w s.x, add_zext16_toNat w s.y,
    rfl, add_zext16_toNat (s.readZpPtr n) s.y, rfl, fun _ => rfl⟩

/-- A mode that adds an index to a base address pays one cycle more where the sum leaves the base's page. -/
theorem pageExtra_of_indexBase {s : State} {m : MemMode} {base : Addr} (h : s.indexBase m = some base) :
    s.pageExtra (.mem m) = if (s.ea m).toNat / 256 = base.toNat / 256 then 0 else 1 := by
  have hc : s.crossed m = (hiByte base != hiByte (s.ea m)) := by rw [State.crossed, h]
  have hleaves : s.crossed m = true ↔ ¬ (s.ea m).toNat / 256 = base.toNat / 256 := by
    rw [hc, bne_iff_ne, ne_eq, hiByte_eq_iff, eq_comm]
  rw [State.pageExtra]
  simp only [hleaves, ite_not]

theorem readCost_of_indexBase {s : State} {m : MemMode} {base : Addr} (h : s.indexBase m = some base) :
    s.readCost (.mem m) =
      if (s.ea m).toNat / 256 = base.toNat / 256 then readCycles (.mem m) else readCycles (.mem m) + 1 := by
  rw [State.readCost, pageExtra_of_indexBase h]
  split <;> rfl

theorem pageExtra_of_indexBase_none {s : State} {m : MemMode} (h : s.indexBase m = none) : s.pageExtra (.mem m) = 0 := by
  have hc : s.crossed m = false := by rw [State.crossed, h]
  rw [State.pageExtra, hc]
  rfl

/-- Settles O23: the three modes with a base address test it; the others have none. -/
theorem pageCrossingExtra : Obligations.PageCrossingExtra := by
  intro s n w
  refine ⟨pageExtra_of_indexBase rfl, pageExtra_of_indexBase rfl, pageExtra_of_indexBase rfl, rfl, fun m hm => ?_,
    readCost_of_indexBase rfl, readCost_of_indexBase rfl, readCost_of_indexBase rfl, rfl⟩
  simp only [List.mem_cons, List.not_mem_nil, or_false] at hm
  rcases hm with rfl | rfl | rfl | rfl | rfl <;> exact pageExtra_of_indexBase_none rfl

/-- Settles O24: the three tables, mode by mode. -/
theorem baseCostOfEachMode : Obligations.BaseCostOfEachMode := fun _ _ => ⟨rfl, rfl, rfl⟩

end Sys2Proof.Machine
end
